-- ==== Sys2Proof/Word.lean ====
section
/-! DEFINITION. The word of the Olvarin 3024 (spec/00_scope.md, Sizes and addresses). -/

namespace Sys2Proof

/-- A word is 32 bits (spec/00_scope.md, Sizes and addresses). -/
abbrev Word := BitVec 32

/-- The identity of an upstream master, 0 to 15 (R116). -/
abbrev Requester := BitVec 4

/-- An upstream transaction's 40-bit byte address (R116). -/
abbrev Address := BitVec 40

/-- A signed 24-bit raw sample (R1). -/
abbrev RawSample := BitVec 24

/-- A signed 16-bit pilot sample (R51). -/
abbrev PilotSample := BitVec 16

/-- A signed 64-bit accumulator or sum (R31, R76). -/
abbrev Accumulator := BitVec 64

end Sys2Proof
end

