-- ==== Sys2Proof/Syntax.lean ====
section
/-! DEFINITION. The commands of the Olvarin 3024: one constructor for each row of spec/opcode_table.json, which lists the part's
steps, each whole and indivisible (spec/95_what_each_step_holds.md). A command posted by the host runs from the part's own command
queue, which holds its operand words (R149), so the rows of the Command Unit carry no operands here. -/

namespace Sys2Proof

/-- The DRAM's answer to an attempt, other than BUSY (R137). `landed` says, for each word of a WRITE answered FAULT, whether that
word is in memory: the spec says it "may or may not be" (assumption log 11). A READ answered FAULT ignores it. -/
inductive DramAnswer where
  | ok
  | fault (landed : List Bool)
  deriving DecidableEq, Repr

/-- One step of the part. -/
inductive Instr where
  /-- RESETn, low and released again, with the CBASE straps as sampled at the release (R165, R173). -/
  | lineReset (cbase : BitVec 4)
  /-- One pulse of the time base (R172). -/
  | tick
  /-- The Stall Timer's part of the pulse that brings it to 0 (R41). -/
  | stallTimerExpiry
  /-- One deferred entry's part of the pulse that brings its countdown to 0 (R111). -/
  | discardCountdownExpiry (entry : Nat)
  /-- A write transaction: its length is that of its data (R116, R121). -/
  | upstreamWrite (requester : Requester) (address : Address) (data : List Word)
  /-- A write transaction, named for the case that the Scan Assembler takes it (R2). -/
  | rawWindowWrite (requester : Requester) (address : Address) (data : List Word)
  /-- A write transaction, named for the case that it includes the consumer index word (R125, R175). -/
  | consumerIndexWrite (requester : Requester) (address : Address) (data : List Word)
  /-- A read transaction (R116, R126). -/
  | upstreamRead (requester : Requester) (address : Address) (length : Nat)
  /-- The Read Path presents the held read once the buffer is empty (R131). -/
  | passThroughReadIssue
  /-- The DRAM answers the Read Path's attempt (R132). -/
  | passThroughReadAnswer (answer : DramAnswer)
  /-- The DRAM answers a delivery's attempt (R128). -/
  | pwbDeliveryAnswer (answer : DramAnswer)
  /-- The DRAM answers the attempt BUSY (R144). -/
  | attemptBusy
  /-- The Correlation Engine takes a CLEAR item (R26). -/
  | clearSweep
  /-- The Correlation Engine takes a PROCESS item (R27). -/
  | processScan
  /-- The DRAM answers an engine attempt (R32). -/
  | engineTransferAnswer (answer : DramAnswer)
  /-- The Stack Unit takes a CLEAR item (R83). -/
  | clearSlot
  /-- The Stack Unit takes a FOLD item (R84). -/
  | fold
  /-- The Stack Unit takes a SEAL item (R94). -/
  | seal
  /-- The DRAM answers a Stack Unit attempt (R85). -/
  | stackUnitTransferAnswer (answer : DramAnswer)
  /-- The DRAM answers a fetch's attempt (R108). -/
  | drqFetchAnswer (answer : DramAnswer)
  /-- The Pilot Unit begins the reads of a check (R54). -/
  | pilotCheckStart
  /-- The DRAM answers a check read's attempt (R54). -/
  | pilotCheckReadAnswer (answer : DramAnswer)
  /-- The DRAM answers a report record write's attempt (R177). -/
  | reportWriteAnswer (answer : DramAnswer)
  /-- The DRAM answers a producer index write's attempt (R178). -/
  | producerWriteAnswer (answer : DramAnswer)
  /-- The DRAM answers a mirror write's attempt (R97). -/
  | mirrorWriteAnswer (answer : DramAnswer)
  /-- The Command Unit hands a slot's BUSY write (R150). -/
  | busyWriteHanded
  /-- The DRAM answers a command slot write's attempt (R152). -/
  | commandSlotWriteAnswer (answer : DramAnswer)
  /-- The head command begins and its kind names none (R154). -/
  | badKindCommand
  /-- SET_GEOMETRY begins (R155). -/
  | setGeometry
  /-- SET_WINDOW begins (R156). -/
  | setWindow
  /-- The window of a waiting SET_WINDOW takes its settings (R157). -/
  | windowChange
  /-- SET_TIMERS begins (R158). -/
  | setTimers
  /-- READ_STATE begins (R159). -/
  | readState
  /-- ENGINE_RESET begins: its first event (R160). -/
  | engineReset
  /-- The second event of ENGINE_RESET (R161). -/
  | engineResetScanAssembler
  /-- The third event of ENGINE_RESET (R162). -/
  | engineResetDone
  /-- NOTICE_SWEEP begins (R22). -/
  | noticeSweep
  /-- CANCEL_SWEEP begins (R38). -/
  | cancelSweep
  /-- READ_SWEEP begins (R46). -/
  | readSweep
  /-- DEFINE_PILOT begins (R53). -/
  | definePilot
  /-- REMOVE_PILOT begins (R55). -/
  | removePilot
  /-- MUTE_CHANNEL begins (R70). -/
  | muteChannel
  /-- UNMUTE_CHANNEL begins (R71). -/
  | unmuteChannel
  /-- READ_CHANNEL begins (R72). -/
  | readChannel
  /-- OPEN_SOURCE_POINT begins (R80). -/
  | openSourcePoint
  /-- The slot of a waiting OPEN_SOURCE_POINT is claimed (R81). -/
  | slotClaim
  /-- CLOSE_SOURCE_POINT begins (R92). -/
  | closeSourcePoint
  /-- RELEASE_STACK begins (R98). -/
  | releaseStack
  /-- SET_ARBITER begins (R143). -/
  | setArbiter
  /-- SET_MODE begins (R166). -/
  | setMode
  /-- SET_REPORTS begins (R174). -/
  | setReports
  /-- The DRAM has finished with the attempt that a line reset abandoned (R147); `landed` as in `DramAnswer.fault`. -/
  | abandonedAttemptFinished (landed : List Bool)
  deriving DecidableEq, Repr

end Sys2Proof
end

