-- ==== Sys2Proof/Decode.lean ====
section
/-! DEFINITION. Words that spell commands. No row of spec/opcode_table.json gives bits ("fields" is empty in every row), so no
word spells one. A host's command is spelled in a command slot, and those words are decoded by the part itself
(Sys2Proof/Machine/Operands.lean, spec/12_record_layouts.md). -/

namespace Sys2Proof

/-- The command that `nbits` bits `w` of the opcode table spell: none, since no row of the table gives bits. -/
def decodeTableWord (_nbits _w : Nat) : Option Instr := none

end Sys2Proof
end

