-- ==== Sys2Proof/Config.lean ====
section
/-! DEFINITION. The numbers the manual fixes for every Olvarin 3024: capacities, limits and defaults.
The spec leaves no value of an instruction's result open, so there is no free value here: what the DRAM decides (the words of a
WRITE answered FAULT) is an operand of the command that brings the answer (assumption log 11). -/

namespace Sys2Proof.Config

/-- Scan Staging holds up to four staged scans (R3). -/
def stagingCapacity : Nat := 4
/-- Scan Staging never holds more than two FILLING scans (R3). -/
def fillingCapacity : Nat := 2
/-- The Sweep Table holds up to 24 live sweeps (R20). -/
def sweepCount : Nat := 24
/-- The Pilot Table holds 16 entries (R50). -/
def pilotCount : Nat := 16
/-- The Channel Condition Table holds 3,072 entries (R63). -/
def channelCount : Nat := 3072
/-- The Stack Directory holds 32 entries (R77). -/
def directoryCount : Nat := 32
/-- The Deferred Read Queue holds up to eight entries (R102). -/
def drqCount : Nat := 8
/-- The Posted Write Buffer holds up to 32 writes (R127). -/
def pwbCapacity : Nat := 32
/-- The Control Area holds eight command slots (R148). -/
def slotCount : Nat := 8
/-- A transfer stays outstanding up to this many BUSY answers (R144). -/
def busyLimit : Nat := 1024
/-- The SCRATCH window holds 24 areas (R156). -/
def scratchAreas : Nat := 24
/-- The stall period after line reset, in milliseconds (R40, R158). -/
def stallPeriodAtReset : Nat := 2000
/-- The discard period after line reset, in milliseconds (R111, R158). -/
def discardPeriodAtReset : Nat := 500
/-- Both slice settings after line reset (R143). -/
def sliceAtReset : Nat := 8
/-- A GOOD channel whose score reaches this becomes SUSPECT (R64). -/
def suspectThreshold : Nat := 48
/-- A SUSPECT channel whose score reaches this becomes MUTED (R64). -/
def muteThreshold : Nat := 160
/-- A lost count and a stray write count are held at this (R11, R176). -/
def countCap : Nat := 65535
/-- The top scan number, 2^48 - 1 (R4). -/
def scanTop : Nat := 2 ^ 48 - 1
/-- The top byte address, 2^40 - 1 (R116). -/
def addressTop : Nat := 2 ^ 40 - 1
/-- The Control Area is 64 KiB (R119). -/
def controlAreaSize : Nat := 65536
/-- The strap step of the Control Area base, 64 GiB (R173). -/
def controlAreaStep : Nat := 64 * 2 ^ 30
/-- What a word of the DRAM that nothing has written reads as. DESIGN CHOICE (assumption log 10, unsafe): the spec gives no
contents of the DRAM at power-up. -/
def unwrittenWord : BitVec 32 := 0

end Sys2Proof.Config
end

