-- ==== Sys2Proof/Machine/State.lean ====
section
/-! DEFINITION. Everything the spec gives the Olvarin 3024, as plain data: one structure for each block of spec/00_scope.md §0.3,
the DRAM's words, and the queue of commands that wait. INVENTORY.md lists the fields with their rules and reset values. -/

namespace Sys2Proof.Machine

/-- Why a step could stop with a fault. The spec gives the part no stop: every transaction is answered, every command completes
and every memory fault is handled by the client that met it, so no reason exists. -/
inductive Fault where
  deriving DecidableEq, Repr

/-- Why a step could be refused. -/
inductive Refusal where
  /-- Raised by exec's arm for a row that has no meaning yet. Safe: nothing is claimed of the row. No arm raises it now. -/
  | notModelled (mnemonic : String)
  deriving DecidableEq, Repr

/-! ### Configuration and modes -/

/-- C, K_max and L_max, all 0 while unset (R155). -/
structure Geometry where
  c : Nat
  kMax : Nat
  lMax : Nat
  deriving DecidableEq, Repr

/-- The mode of the RAW window (R156). -/
inductive RawMode where
  | tap
  | absorb
  deriving DecidableEq, Repr

/-- The RAW window while it is on (R156). -/
structure RawWindow where
  base : Nat
  slots : Nat
  mode : RawMode
  deriving DecidableEq, Repr

/-- The STACK window while it is on (R156). -/
structure StackWindow where
  base : Nat
  slots : Nat
  deriving DecidableEq, Repr

/-- The SCRATCH window while it is on (R156). -/
structure ScratchWindow where
  base : Nat
  deriving DecidableEq, Repr

/-- The PILOT window while it is on, its limit included (R59). -/
structure PilotWindow where
  base : Nat
  limit : Nat
  deriving DecidableEq, Repr

/-- The four windows; none is off (R120). -/
structure Windows where
  raw : Option RawWindow
  stack : Option StackWindow
  scratch : Option ScratchWindow
  pilot : Option PilotWindow
  deriving DecidableEq, Repr

/-- The operating mode (R165). -/
inductive Mode where
  | idle
  | acquire
  | draining
  deriving DecidableEq, Repr

/-! ### Scan Assembler -/

/-- The state of a staging entry (R3). -/
inductive StagingState where
  | filling
  | complete
  deriving DecidableEq, Repr

/-- A staged scan (R3). `samples` pairs each received channel with its value, in increasing channel number, so its first
components are the received-channel set. -/
structure StagingEntry where
  scan : Nat
  slot : Nat
  state : StagingState
  samples : List (Nat × RawSample)
  holed : List Nat
  released : Bool
  deriving DecidableEq, Repr

/-- The stray mark while it is set (R11). -/
structure StrayMark where
  address : Nat
  requester : Requester
  count : Nat
  deriving DecidableEq, Repr

/-- Scan Staging in scan-number order, the newest admitted scan number and the stray mark (R3, R4, R11). -/
structure Assembler where
  staging : List StagingEntry
  newest : Option Nat
  stray : Option StrayMark
  deriving DecidableEq, Repr

/-! ### Sweep Table and Correlation Engine -/

/-- A sweep's pilot (R20). -/
inductive PilotRef where
  | stored (id : Nat)
  | captured (aux : Nat)
  deriving DecidableEq, Repr

/-- The state of a live sweep (R21). -/
inductive SweepState where
  | noticed
  | correlating
  | stalled
  | foldWait
  | folding
  deriving DecidableEq, Repr

/-- How a sweep left the correlation states (R21). -/
inductive SweepOutcome where
  | stacked
  | cancelled
  | gapped
  | stallAborted
  | faultAborted
  | modeAborted
  deriving DecidableEq, Repr

/-- An entry of the Sweep Table (R20), with the held sample of R61. Channel sets are lists in increasing channel number.
The window end E is computed (`Sweep.windowEnd`). -/
structure Sweep where
  tag : Nat
  sourcePoint : Nat
  slot : Nat
  start : Nat
  pilot : PilotRef
  length : Nat
  lags : Nat
  first : Nat
  last : Nat
  gapFirst : Nat
  gapLast : Nat
  startingSet : Option (List Nat)
  activeSet : Option (List Nat)
  holedSet : List Nat
  state : SweepState
  lastScan : Option Nat
  gapped : Bool
  outcome : Option SweepOutcome
  heldSample : PilotSample
  deriving DecidableEq, Repr

/-- The Sweep Table by entry index, the Stall Timer (none: stopped) and the stall period (R20, R40). -/
structure SweepTable where
  table : List (Option Sweep)
  stallTimer : Option Nat
  stallPeriod : Nat
  deriving DecidableEq, Repr

/-- An item of the engine work list; a sweep is named by its entry index (R25). -/
inductive EngineItem where
  | clear (entry : Nat)
  | process (scan : Nat)
  deriving DecidableEq, Repr

/-- Where a PROCESS item stands with the sweep it serves: the transfer that is outstanding (R27, R32, R33). -/
inductive ProcessPhase where
  /-- The capture write (R61). -/
  | capture
  /-- A pilot read: `got` holds the samples read so far, from sample `first` on; `next` is the word read after this one (R33). -/
  | pilot (first next : Nat) (got : List PilotSample)
  /-- The read of `count` accumulators of `channel` from `lag` on (R32). -/
  | accumulateRead (first : Nat) (pilot : List PilotSample) (channel lag count : Nat)
  /-- The write-back of the same accumulators (R32). -/
  | accumulateWrite (first : Nat) (pilot : List PilotSample) (channel lag count : Nat)
  deriving DecidableEq, Repr

/-- The engine's current work on one sweep (R26, R27). -/
inductive EngineJob where
  /-- A CLEAR; `cursor` is the word of the scratch area at which the next piece is looked for. -/
  | clear (cursor : Nat)
  /-- A PROCESS(scan) that serves the sweep. -/
  | process (scan : Nat) (phase : ProcessPhase)
  deriving DecidableEq, Repr

/-- The item in progress: the entry it works on, that sweep's tag, and whether the sweep has left the correlation states since
(R36, R45). -/
structure EngineWork where
  entry : Nat
  tag : Nat
  left : Bool
  job : EngineJob
  deriving DecidableEq, Repr

/-- The Correlation Engine (R25). -/
structure Engine where
  list : List EngineItem
  work : Option EngineWork
  deriving DecidableEq, Repr

/-! ### Pilots and channels -/

/-- The state of a pilot entry (R50). -/
inductive PilotState where
  | empty
  | checking
  | ready
  | faulted
  deriving DecidableEq, Repr

/-- An entry of the Pilot Table (R50). -/
structure PilotEntry where
  state : PilotState
  address : Nat
  length : Nat
  checksum : Word
  useCount : Nat
  deriving DecidableEq, Repr

/-- A channel's condition (R63). -/
inductive Condition where
  | good
  | suspect
  | muted
  deriving DecidableEq, Repr

/-- An entry of the Channel Condition Table (R63). -/
structure Channel where
  score : Nat
  condition : Condition
  deriving DecidableEq, Repr

/-! ### Stacks -/

/-- The state of a stack slot (R77). -/
inductive SlotState where
  | free
  | opened
  | complete
  | sealing
  | sealed
  deriving DecidableEq, Repr

/-- A contributor entry (R87, R89). -/
structure Contributor where
  tag : Nat
  outcome : SweepOutcome
  stacked : Nat
  rejected : Nat
  holed : Nat
  muted : Nat
  deriving DecidableEq, Repr

/-- An entry of the Stack Directory (R77). Contributions recorded is the length of the contributor list (R89). The mirror stale
mark is kept with the Report Unit's client (`Reports.stale`). -/
structure DirEntry where
  state : SlotState
  sourcePoint : Nat
  foldTarget : Nat
  lags : Nat
  first : Nat
  last : Nat
  gapFirst : Nat
  gapLast : Nat
  editLimit : Nat
  notices : Nat
  damaged : Bool
  headerFault : Bool
  contributors : List Contributor
  foldCounts : List Nat
  deriving DecidableEq, Repr

/-- An item of the Stack Unit work list; a sweep is named by its entry index (R82). -/
inductive StackItem where
  | clear (slot : Nat)
  | fold (entry : Nat)
  | seal (slot : Nat)
  deriving DecidableEq, Repr

/-- The transfer of a fold that is outstanding, for `count` lags from `lag` on (R85, R86). -/
inductive FoldPhase where
  | scratchRead (lag count : Nat)
  | sumsRead (lag count : Nat)
  | sumsWrite (lag count : Nat)
  deriving DecidableEq, Repr

/-- A stacking fold in progress (R85): the channel in hand, the channels after it, the accumulators of the channel read so far,
the stacked-channel set and the other counts. -/
structure FoldWork where
  entry : Nat
  slot : Nat
  channel : Nat
  rest : List Nat
  values : List Accumulator
  phase : FoldPhase
  stacked : List Nat
  rejected : Nat
  holed : Nat
  muted : Nat
  deriving DecidableEq, Repr

/-- The Stack Unit's current item (R83, R85, R94). -/
inductive StackJob where
  /-- `cursor` is the word of the sums at which the next piece is looked for. -/
  | clear (slot cursor : Nat)
  | fold (work : FoldWork)
  /-- `next` numbers the seal write after the outstanding one, in the order of R94. -/
  | seal (slot next : Nat)
  deriving DecidableEq, Repr

/-- The item in progress, and whether it has met a FAULT (R90, R94). -/
structure StackWork where
  job : StackJob
  faulted : Bool
  deriving DecidableEq, Repr

/-- The Stack Unit (R82). -/
structure StackUnit where
  list : List StackItem
  work : Option StackWork
  deriving DecidableEq, Repr

/-! ### Deferred Read Queue -/

/-- The state of a deferred read (R103). -/
inductive DrqState where
  | waiting
  | fetching
  | ready
  | faulted
  deriving DecidableEq, Repr

/-- An entry in use (R102). -/
structure DrqEntry where
  requester : Requester
  address : Nat
  length : Nat
  slot : Nat
  state : DrqState
  buffer : List Word
  countdown : Nat
  deriving DecidableEq, Repr

/-- The Deferred Read Queue by entry index, its fetch order and the discard period (R102, R107, R111). -/
structure Drq where
  entries : List (Option DrqEntry)
  fetchOrder : List Nat
  period : Nat
  deriving DecidableEq, Repr

/-! ### The path -/

/-- An entry of the Posted Write Buffer (R127). -/
structure PwbEntry where
  requester : Requester
  address : Nat
  data : List Word
  deriving DecidableEq, Repr

/-- The pass-through read that holds the upstream port, and whether the Read Path has presented it (R117, R131). -/
structure HeldRead where
  requester : Requester
  address : Nat
  length : Nat
  issued : Bool
  deriving DecidableEq, Repr

/-- The answer to an upstream transaction (R116). -/
inductive UpstreamAnswer where
  | accept
  | data (words : List Word)
  | retry
  | defer
  | abort
  deriving DecidableEq, Repr

/-! ### Memory port -/

/-- A transfer: a WRITE carries its words (R137). -/
inductive Transfer where
  | read (address length : Nat)
  | write (address : Nat) (data : List Word)
  deriving DecidableEq, Repr

/-- An outstanding transfer with its BUSY count. `abandoned` marks one whose work ENGINE_RESET or an entry into IDLE has
abandoned, so that its answer is discarded (R25, R146). -/
structure Outstanding where
  transfer : Transfer
  busy : Nat
  abandoned : Bool
  deriving DecidableEq, Repr

/-- The two sides (R138, R139). -/
inductive Side where
  | forwarding
  | part
  deriving DecidableEq, Repr

/-- The five clients of the part side (R139). -/
inductive Client where
  | engine
  | stackUnit
  | pilotUnit
  | drqFetch
  | reportUnit
  deriving DecidableEq, Repr

/-- A client's outstanding transfer, and the next one when it waits behind an abandoned one (R146). -/
structure ClientPort where
  out : Option Outstanding
  next : Option Transfer
  deriving DecidableEq, Repr

/-- The forwarding side's two sources (R138). -/
inductive ForwardSource where
  | delivery
  | passThroughRead
  deriving DecidableEq, Repr

/-- The memory port and its arbiter (R137 to R141). `attempt` is the side whose current transfer is at the DRAM; `abandoned` is the
attempt that a line reset left there (R147); `fetchFor` is the deferred entry for which the DRQ fetch's transfer was issued, none
when that entry has been freed (R110). -/
structure Port where
  forward : Option (ForwardSource × Outstanding)
  engine : ClientPort
  stackUnit : ClientPort
  pilotUnit : ClientPort
  drqFetch : ClientPort
  reportUnit : ClientPort
  fetchFor : Option Nat
  current : Option Client
  rotation : Client
  holder : Side
  sliceCount : Nat
  forwardSlice : Nat
  partSlice : Nat
  attempt : Option Side
  abandoned : Option Transfer
  deriving DecidableEq, Repr

/-! ### Command Unit -/

/-- The statuses of R154 that a command may end with, and BUSY. -/
inductive Status where
  | ok
  | busy
  | badKind
  | badOperand
  | badMode
  | badState
  | noRoom
  | duplicate
  | unknown
  | late
  | tooLate
  | inUse
  | overlap
  | tooSmall
  | outOfWindow
  | checksum
  | memFault
  | notReady
  deriving DecidableEq, Repr

/-- How a command ended: its final status, and its results write's words when it has one (R150). -/
structure Ending where
  status : Status
  results : Option (List Word)
  deriving DecidableEq, Repr

/-- A command slot as the Command Unit holds it (R148, R149): its copy, whether it is busy, the ending that waits for the BUSY
write to be handed, and whether one of the command's writes has met a FAULT (R152). -/
structure CommandSlot where
  copy : List Word
  busy : Bool
  ending : Option Ending
  faulted : Bool
  deriving DecidableEq, Repr

/-- An entry of the command queue (R149). -/
structure QueueEntry where
  slot : Nat
  kind : BitVec 16
  tag : BitVec 16
  operands : List Word
  deriving DecidableEq, Repr

/-- The settings a SET_WINDOW asks for; none turns the window off (R156). -/
inductive WindowSetting where
  | raw (setting : Option RawWindow)
  | stack (setting : Option StackWindow)
  | scratch (setting : Option ScratchWindow)
  | pilot (setting : Option PilotWindow)
  deriving DecidableEq, Repr

/-- A command that takes time, while it is in progress (R153). -/
inductive CommandProgress where
  /-- SET_WINDOW waits to change the window (R157). -/
  | setWindow (setting : WindowSetting)
  /-- DEFINE_PILOT: `drain` buffered writes are still to leave before the first read; `next` is the word after the piece being
  read; `sum` is the running sum (R54). -/
  | definePilot (id drain : Nat) (started : Bool) (next : Nat) (sum : Word)
  /-- OPEN_SOURCE_POINT waits to claim `slot` (R81). -/
  | openSourcePoint (slot : Nat)
  /-- ENGINE_RESET between its events: the directory entries its first event freed, and whether its second event has come
  (R160 to R162). -/
  | engineReset (freed : Nat) (assemblerReset : Bool)
  deriving DecidableEq, Repr

/-- The Command Unit: the slots, the queue with the command in progress at its head, and the slots whose BUSY write is not yet
handed, in posting order (R148 to R153). -/
structure CommandUnit where
  slots : List CommandSlot
  queue : List QueueEntry
  progress : Option CommandProgress
  busyWaits : List Nat
  deriving DecidableEq, Repr

/-! ### Report Unit -/

/-- The twenty report kinds, in kind-number order (spec/11 §11.7). -/
inductive ReportKind where
  | scanForced
  | scanGap
  | scanRewind
  | badHeader
  | straySample
  | sweepEnded
  | streamStalled
  | streamResumed
  | stackSealed
  | stackDiscarded
  | channelSuspect
  | channelMuted
  | channelClear
  | protect
  | malformed
  | forwardFault
  | partFault
  | readDiscarded
  | modeChanged
  | engineResetDone
  deriving DecidableEq, Repr

/-- A report record (R176): a COALESCED record carries its lost count as detail. -/
structure Record where
  kind : ReportKind
  coalesced : Bool
  subject : Nat
  requester : Option Requester
  detail : Nat
  newest : Option Nat
  deriving DecidableEq, Repr

/-- A pending kind (R176). -/
structure PendingKind where
  kind : ReportKind
  count : Nat
  subject : Nat
  requester : Option Requester
  deriving DecidableEq, Repr

/-- Which of a command's up to three slot writes (R150). -/
inductive SlotWriteRole where
  | busy
  | results
  | final
  deriving DecidableEq, Repr

/-- A write into a command slot (R150). -/
structure SlotWrite where
  slot : Nat
  role : SlotWriteRole
  words : List Word
  deriving DecidableEq, Repr

/-- An entry of the Report Unit client's hand order (R177). -/
inductive Handed where
  | record (record : Record)
  | producerReset
  | slotWrite (write : SlotWrite)
  deriving DecidableEq, Repr

/-- The write the client has outstanding (R177). A producer write of SET_REPORTS is a `reset`; a record write holds its ring
place. -/
inductive ReportWrite where
  | record (record : Record) (place : Nat)
  | producer (reset : Bool)
  | mirror (slot : Nat)
  | slotWrite (write : SlotWrite)
  deriving DecidableEq, Repr

/-- The client's outstanding write, and whether its answer is discarded (R174). -/
structure ReportOut where
  write : ReportWrite
  discarded : Bool
  deriving DecidableEq, Repr

/-- The Report Unit and its client (R174 to R178), with the mirror stale marks by slot index (R96). -/
structure Reports where
  size : Nat
  enable : Bool
  producer : Nat
  consumer : Nat
  pendingKinds : List PendingKind
  handOrder : List Handed
  out : Option ReportOut
  producerDue : Bool
  producerOk : Bool
  stale : List Bool
  deriving DecidableEq, Repr

/-- The DRAM: pairs of a word's byte address and the word, addresses strictly rising, no word equal to what an unlisted one reads
as (assumption log 9). -/
abbrev Memory := List (Nat × Word)

/-- The whole machine. -/
structure State where
  geometry : Geometry
  windows : Windows
  cbase : BitVec 4
  mode : Mode
  requestedMode : Mode
  assembler : Assembler
  sweeps : SweepTable
  engine : Engine
  pilots : List PilotEntry
  channels : List Channel
  directory : List DirEntry
  stackUnit : StackUnit
  drq : Drq
  pwb : List PwbEntry
  held : Option HeldRead
  answer : Option UpstreamAnswer
  port : Port
  commands : CommandUnit
  reports : Reports
  memory : Memory
  pending : List Instr
  deriving DecidableEq, Repr

/-! ### Reset values -/

/-- A pilot entry after line reset (R62). -/
def PilotEntry.atReset : PilotEntry := ⟨.empty, 0, 0, 0, 0⟩

/-- A channel after line reset (R74). -/
def Channel.atReset : Channel := ⟨0, .good⟩

/-- A FREE directory entry: every field other than the state is zero, clear or empty (R77). -/
def DirEntry.free : DirEntry := ⟨.free, 0, 0, 0, 0, 0, 0, 0, 0, 0, false, false, [], []⟩

/-- A client with nothing outstanding (R147). -/
def ClientPort.none : ClientPort := ⟨Option.none, Option.none⟩

/-- The memory port after line reset (R143, R147). -/
def Port.atReset (abandoned : Option Transfer) : Port where
  forward := none
  engine := .none
  stackUnit := .none
  pilotUnit := .none
  drqFetch := .none
  reportUnit := .none
  fetchFor := none
  current := none
  rotation := .reportUnit
  holder := .forwarding
  sliceCount := 0
  forwardSlice := Config.sliceAtReset
  partSlice := Config.sliceAtReset
  attempt := none
  abandoned := abandoned

/-- A command slot after line reset (R163). -/
def CommandSlot.atReset : CommandSlot := ⟨List.replicate 8 0, false, none, false⟩

/-- The Report Unit after line reset, with all 32 mirror records stale (R100, R180). The first producer write after line reset
counts as following one answered OK (R178). -/
def Reports.atReset : Reports where
  size := 0
  enable := false
  producer := 0
  consumer := 0
  pendingKinds := []
  handOrder := []
  out := none
  producerDue := false
  producerOk := true
  stale := List.replicate Config.directoryCount true

/-- The values that line reset gives every block (R48, R62, R74, R100, R114, R134, R147, R163, R165, R180), for the straps as
sampled, the attempt it leaves at the DRAM, the DRAM's words and the commands that wait, none of which it sets. -/
def State.lineResetValues (cbase : BitVec 4) (abandoned : Option Transfer) (memory : Memory) (pending : List Instr) : State where
  geometry := ⟨0, 0, 0⟩
  windows := ⟨none, none, none, none⟩
  cbase := cbase
  mode := .idle
  requestedMode := .idle
  assembler := ⟨[], none, none⟩
  sweeps := ⟨List.replicate Config.sweepCount none, none, Config.stallPeriodAtReset⟩
  engine := ⟨[], none⟩
  pilots := List.replicate Config.pilotCount PilotEntry.atReset
  channels := List.replicate Config.channelCount Channel.atReset
  directory := List.replicate Config.directoryCount DirEntry.free
  stackUnit := ⟨[], none⟩
  drq := ⟨List.replicate Config.drqCount none, [], Config.discardPeriodAtReset⟩
  pwb := []
  held := none
  answer := none
  port := Port.atReset abandoned
  commands := ⟨List.replicate Config.slotCount CommandSlot.atReset, [], none, []⟩
  reports := Reports.atReset
  memory := memory
  pending := pending

/-- The machine right after the power-up line reset. The straps are 0: DESIGN CHOICE (assumption log 12, unsafe). No word of the
DRAM is listed (assumption log 10). -/
def State.reset : State := State.lineResetValues 0 none [] []

end Sys2Proof.Machine
end

