-- ==== Sys2Proof/Machine/Flags.lean ====
section
/-! DEFINITION. The codes and the words the part writes (spec/12_record_layouts.md). Every bit that no field covers is zero
(R182). -/

namespace Sys2Proof.Machine

/-! ### Codes (12.3, 12.4, 12.5) -/

/-- The status codes of 12.3. -/
def Status.code : Status → Nat
  | .ok => 1
  | .busy => 2
  | .badKind => 3
  | .badOperand => 4
  | .badMode => 5
  | .badState => 6
  | .noRoom => 7
  | .duplicate => 8
  | .unknown => 9
  | .late => 10
  | .tooLate => 11
  | .inUse => 12
  | .overlap => 13
  | .tooSmall => 14
  | .outOfWindow => 15
  | .checksum => 16
  | .memFault => 17
  | .notReady => 18

/-- The mode codes of 12.4. -/
def Mode.code : Mode → Nat
  | .idle => 1
  | .acquire => 2
  | .draining => 3

/-- The sweep state codes of 12.4. -/
def SweepState.code : SweepState → Nat
  | .noticed => 1
  | .correlating => 2
  | .stalled => 3
  | .foldWait => 4
  | .folding => 5

/-- The outcome codes of 12.4. -/
def SweepOutcome.code : SweepOutcome → Nat
  | .stacked => 1
  | .cancelled => 2
  | .gapped => 3
  | .stallAborted => 4
  | .faultAborted => 5
  | .modeAborted => 6

/-- The code of an outcome that may be absent (R182). -/
def outcomeCode : Option SweepOutcome → Nat
  | none => 0
  | some o => o.code

/-- The slot state codes of 12.4. -/
def SlotState.code : SlotState → Nat
  | .free => 0
  | .opened => 1
  | .complete => 2
  | .sealing => 3
  | .sealed => 4

/-- The condition codes of 12.4. -/
def Condition.code : Condition → Nat
  | .good => 0
  | .suspect => 1
  | .muted => 2

/-- The kind numbers of 11.7. -/
def ReportKind.code : ReportKind → Nat
  | .scanForced => 1
  | .scanGap => 2
  | .scanRewind => 3
  | .badHeader => 4
  | .straySample => 5
  | .sweepEnded => 6
  | .streamStalled => 7
  | .streamResumed => 8
  | .stackSealed => 9
  | .stackDiscarded => 10
  | .channelSuspect => 11
  | .channelMuted => 12
  | .channelClear => 13
  | .protect => 14
  | .malformed => 15
  | .forwardFault => 16
  | .partFault => 17
  | .readDiscarded => 18
  | .modeChanged => 19
  | .engineResetDone => 20

/-- The operation a PART_FAULT names (12.5). -/
inductive PartOperation where
  | clear
  | accumulate
  | capture
  | pilotRead
  | pilotCheck
  | slotClear
  | foldScratch
  | foldSums
  | sealWrite
  | mirrorWrite
  | drqFetch
  | commandWrite
  | reportWrite
  | producerWrite
  deriving DecidableEq, Repr

/-- PART_FAULT detail codes (12.5). -/
def PartOperation.code : PartOperation → Nat
  | .clear => 1
  | .accumulate => 2
  | .capture => 3
  | .pilotRead => 4
  | .pilotCheck => 5
  | .slotClear => 6
  | .foldScratch => 7
  | .foldSums => 8
  | .sealWrite => 9
  | .mirrorWrite => 10
  | .drqFetch => 11
  | .commandWrite => 12
  | .reportWrite => 13
  | .producerWrite => 14

/-- The part that refused a write (R122). -/
inductive ProtectedPart where
  | stackSlot
  | scratch
  | pilotExtent
  | commandSlot
  | partRegion
  deriving DecidableEq, Repr

/-- PROTECT detail codes (12.5). -/
def ProtectedPart.code : ProtectedPart → Nat
  | .stackSlot => 1
  | .scratch => 2
  | .pilotExtent => 3
  | .commandSlot => 4
  | .partRegion => 5

/-- Why a transaction is malformed (R118). -/
inductive MalformedReason where
  | length
  | alignment
  | boundary
  deriving DecidableEq, Repr

/-- MALFORMED detail codes (12.5). -/
def MalformedReason.code : MalformedReason → Nat
  | .length => 1
  | .alignment => 2
  | .boundary => 3

/-- Why a header is refused as BAD_HEADER (R5). -/
inductive HeaderReason where
  | partialHeader
  | range
  deriving DecidableEq, Repr

/-- BAD_HEADER detail codes (12.5). -/
def HeaderReason.code : HeaderReason → Nat
  | .partialHeader => 1
  | .range => 2

/-- Why a deferred read is discarded (R111 to R113). -/
inductive DiscardReason where
  | timeout
  | released
  | reset
  deriving DecidableEq, Repr

/-- READ_DISCARDED detail codes (12.5). -/
def DiscardReason.code : DiscardReason → Nat
  | .timeout => 1
  | .released => 2
  | .reset => 3

/-- What muted or cleared a channel (R73). -/
inductive ConditionCause where
  | byScore
  | byCommand
  deriving DecidableEq, Repr

/-- CHANNEL_MUTED and CHANNEL_CLEAR detail codes (12.5). -/
def ConditionCause.code : ConditionCause → Nat
  | .byScore => 1
  | .byCommand => 2

/-- What changed the mode (R171). -/
inductive ModeCause where
  | setMode
  | drainEnd
  | engineReset
  deriving DecidableEq, Repr

/-- The cause codes of MODE_CHANGED (12.5). -/
def ModeCause.code : ModeCause → Nat
  | .setMode => 1
  | .drainEnd => 2
  | .engineReset => 3

/-- MODE_CHANGED detail: mode entered in bits 7:0, cause in 15:8 (12.5). -/
def modeChangedDetail (entered : Mode) (cause : ModeCause) : Nat := entered.code + 2 ^ 8 * cause.code

/-! ### Words -/

/-- A number as a word. -/
def word (n : Nat) : Word := BitVec.ofNat 32 n

/-- A flag as a number. -/
def flag (b : Bool) : Nat := if b then 1 else 0

/-- A 64-bit quantity, low word first (spec/12). -/
def words64 (n : Nat) : List Word := [word n, word (n / 2 ^ 32)]

/-- A scan number that may be none: for none, bit 31 of the high word alone is set (R182). -/
def scanWords : Option Nat → List Word
  | none => [0, word (2 ^ 31)]
  | some n => words64 n

/-- The status word: tag 31:16, status 7:0 (12.3). -/
def statusWord (status : Status) (tag : BitVec 16) : Word := word (status.code + 2 ^ 16 * tag.toNat)

/-- The eight words of a ring record (12.5). -/
def Record.words (r : Record) : List Word :=
  let present := match r.requester with
    | none => 0
    | some q => 2 ^ 9 + 2 ^ 16 * q.toNat
  word (r.kind.code + 2 ^ 8 * flag r.coalesced + present) ::
    (words64 r.subject ++ [word r.detail] ++ scanWords r.newest ++ [0, 0])

/-- Contributions recorded: always the length of the contributor list (R89). -/
def DirEntry.contributions (e : DirEntry) : Nat := e.contributors.length

/-- Words 1 to 7 of a mirror record and of a sealed header (12.6). -/
def DirEntry.commonWords (e : DirEntry) : List Word :=
  [word e.sourcePoint,
   word (e.foldTarget + 2 ^ 8 * e.notices + 2 ^ 16 * e.contributions),
   word e.lags,
   word (e.first + 2 ^ 16 * e.last),
   word (e.gapFirst + 2 ^ 16 * e.gapLast)] ++ words64 e.editLimit

/-- The eight words of a mirror record (12.6, R96). -/
def DirEntry.mirrorWords (e : DirEntry) : List Word :=
  word (e.state.code + 2 ^ 8 * flag e.damaged + 2 ^ 9 * flag e.headerFault) :: e.commonWords

/-- The four words of a contributor entry in the header (12.6). -/
def Contributor.words (c : Contributor) : List Word :=
  [word (c.tag + 2 ^ 16 * c.outcome.code), word (c.stacked + 2 ^ 16 * c.rejected), word (c.holed + 2 ^ 16 * c.muted), 0]

/-- The 256 words of a sealed slot's header region: the state is SEALED and HEADER_FAULT is 0 (12.6, R94). -/
def DirEntry.headerWords (e : DirEntry) : List Word :=
  let body := word (SlotState.sealed.code + 2 ^ 8 * flag e.damaged) :: e.commonWords ++ [word e.contributions] ++
    List.replicate 7 0 ++ e.contributors.flatMap Contributor.words
  body ++ List.replicate (256 - body.length) 0

/-- STACK_SEALED detail: contributions 7:0, DAMAGED bit 8, HEADER_FAULT bit 9 (12.5). -/
def DirEntry.sealedDetail (e : DirEntry) : Nat := e.contributions + 2 ^ 8 * flag e.damaged + 2 ^ 9 * flag e.headerFault

end Sys2Proof.Machine
end

