-- ==== Sys2Proof/Machine/Operands.lean ====
section
/-! DEFINITION. The operand forms of the commands the host posts, read from a command queue entry by the layouts of
spec/12_record_layouts.md §12.3 (R181): each field from its bits as an unsigned value, bits of no field ignored, the range checks
left to the command's rule. -/

namespace Sys2Proof.Machine

/-! ### Kinds and modes -/

/-- The nineteen command kinds of R154. -/
inductive CommandKind where
  | setGeometry
  | setWindow
  | setTimers
  | readState
  | engineReset
  | noticeSweep
  | cancelSweep
  | readSweep
  | definePilot
  | removePilot
  | muteChannel
  | unmuteChannel
  | readChannel
  | openSourcePoint
  | closeSourcePoint
  | releaseStack
  | setArbiter
  | setMode
  | setReports
  deriving DecidableEq, Repr

/-- The kind codes of 12.3. -/
def CommandKind.ofCode : Nat → Option CommandKind
  | 1 => some .setGeometry
  | 2 => some .setWindow
  | 3 => some .setTimers
  | 4 => some .readState
  | 5 => some .engineReset
  | 6 => some .noticeSweep
  | 7 => some .cancelSweep
  | 8 => some .readSweep
  | 9 => some .definePilot
  | 11 => some .removePilot
  | 12 => some .muteChannel
  | 13 => some .unmuteChannel
  | 14 => some .readChannel
  | 15 => some .openSourcePoint
  | 16 => some .closeSourcePoint
  | 17 => some .releaseStack
  | 18 => some .setArbiter
  | 19 => some .setMode
  | 20 => some .setReports
  | _ => none

/-- The availability table of R154. -/
def CommandKind.available : CommandKind → Mode → Bool
  | .setGeometry, m => m == .idle
  | .setWindow, m => m == .idle
  | .noticeSweep, m => m == .acquire
  | .openSourcePoint, m => m != .draining
  | .cancelSweep, m => m != .idle
  | _, _ => true

/-! ### Fields -/

/-- Operand word `i`, 1 to 6. -/
def QueueEntry.operand (q : QueueEntry) (i : Nat) : Word := q.operands.getD (i - 1) 0

/-- Operand word `i` whole. -/
def QueueEntry.whole (q : QueueEntry) (i : Nat) : Nat := (q.operand i).toNat

/-- Bits 15:0 of operand word `i`. -/
def QueueEntry.low (q : QueueEntry) (i : Nat) : Nat := q.whole i % 2 ^ 16

/-- Bits 31:16 of operand word `i`. -/
def QueueEntry.high (q : QueueEntry) (i : Nat) : Nat := q.whole i / 2 ^ 16

/-- A quantity given as a low word `i` and a high word `i + 1`, with every bit of the high word (R181). -/
def QueueEntry.wide (q : QueueEntry) (i : Nat) : Nat := q.whole i + 2 ^ 32 * q.whole (i + 1)

/-- The command kind of an entry, none when the kind field is in no table (R154). -/
def QueueEntry.command (q : QueueEntry) : Option CommandKind := CommandKind.ofCode q.kind.toNat

/-! ### SET_WINDOW (R156) -/

/-- Check 1 of R156 on a base. -/
def baseInRange (base : Nat) : Bool := base ≤ Config.addressTop && base % 64 == 0

/-- The settings of a SET_WINDOW, none when check 1 of R156 fails. Settings that turn the window off are checked for the selector
alone, on the operand values as given (assumption log 31). -/
def QueueEntry.windowSetting (q : QueueEntry) : Option WindowSetting :=
  let base := q.wide 2
  let count := q.whole 4
  match q.whole 1 with
  | 1 =>
    if count = 0 then some (.raw none)
    else if baseInRange base && 16 ≤ count && count ≤ 4096 then
      match q.whole 5 with
      | 1 => some (.raw (some ⟨base, count, .tap⟩))
      | 2 => some (.raw (some ⟨base, count, .absorb⟩))
      | _ => none
    else none
  | 2 =>
    if count = 0 then some (.stack none)
    else if baseInRange base && count ≤ 32 then some (.stack (some ⟨base, count⟩))
    else none
  | 3 =>
    if count = 0 then some (.scratch none)
    else if baseInRange base && count == Config.scratchAreas then some (.scratch (some ⟨base⟩))
    else none
  | 4 =>
    let limit := q.wide 4
    if limit < base then some (.pilot none)
    else if baseInRange base && limit ≤ Config.addressTop && (limit + 1) % 64 == 0 then some (.pilot (some ⟨base, limit⟩))
    else none
  | _ => none

/-! ### NOTICE_SWEEP (R22) -/

/-- The pilot description of a NOTICE_SWEEP; `neither` when the pilot kind has no code. -/
inductive NoticePilot where
  | stored (id : Nat)
  | captured (aux length : Nat)
  | neither
  deriving DecidableEq, Repr

/-- The operands of a NOTICE_SWEEP. -/
structure NoticeOperands where
  tag : Nat
  sourcePoint : Nat
  start : Nat
  pilot : NoticePilot
  deriving DecidableEq, Repr

/-- Word 6 is read by the layout of the kind in word 5 (12.3). -/
def QueueEntry.noticeOperands (q : QueueEntry) : NoticeOperands where
  tag := q.low 1
  sourcePoint := q.whole 2
  start := q.wide 3
  pilot := match q.whole 5 with
    | 1 => .stored (q.whole 6)
    | 2 => .captured (q.low 6) (q.high 6)
    | _ => .neither

/-! ### OPEN_SOURCE_POINT (R80) -/

/-- The operands of an OPEN_SOURCE_POINT. -/
structure OpenOperands where
  sourcePoint : Nat
  foldTarget : Nat
  lags : Nat
  first : Nat
  last : Nat
  gapFirst : Nat
  gapLast : Nat
  editLimit : Nat
  deriving DecidableEq, Repr

/-- The words of 12.3. -/
def QueueEntry.openOperands (q : QueueEntry) : OpenOperands where
  sourcePoint := q.whole 1
  foldTarget := q.low 2
  lags := q.high 2
  first := q.low 3
  last := q.high 3
  gapFirst := q.low 4
  gapLast := q.high 4
  editLimit := q.wide 5

end Sys2Proof.Machine
end

