-- ==== Sys2Proof/Machine/Ops.lean ====
section
/-! DEFINITION. The shared operations: the DRAM's words, sizes and ranges, the tables, reports, the memory port with its arbiter, the
boundary work of every event, and the beginning and end of a command. -/

namespace Sys2Proof.Machine

/-! ### The DRAM (R137; assumption log 9, log 10) -/

/-- The word at an address: what is listed, else what an unlisted word reads as. -/
def Memory.read : Memory → Nat → Word
  | [], _ => Config.unwrittenWord
  | (b, v) :: rest, a => if a = b then v else Memory.read rest a

/-- One word written, the canonical form kept: a word equal to what an unlisted one reads as is not listed. -/
def Memory.write : Memory → Nat → Word → Memory
  | [], a, w => if w = Config.unwrittenWord then [] else [(a, w)]
  | (b, v) :: rest, a, w =>
    if a < b then (if w = Config.unwrittenWord then (b, v) :: rest else (a, w) :: (b, v) :: rest)
    else if a = b then (if w = Config.unwrittenWord then rest else (a, w) :: rest)
    else (b, v) :: Memory.write rest a w

/-- The canonical form: addresses strictly rising, no listed word equal to what an unlisted one reads as. -/
abbrev Memory.wf (m : Memory) : Prop :=
  m.Pairwise (fun p q => p.1 < q.1) ∧ ∀ p ∈ m, p.2 ≠ Config.unwrittenWord

/-- Consecutive words from an address. -/
def Memory.readWords (m : Memory) (a n : Nat) : List Word := (List.range n).map (fun i => m.read (a + 4 * i))

/-- Consecutive words written from an address. -/
def Memory.writeWords : Memory → Nat → List Word → Memory
  | m, _, [] => m
  | m, a, w :: ws => Memory.writeWords (Memory.write m a w) (a + 4) ws

/-- The words of a WRITE answered FAULT: those that landed (R137). -/
def Memory.writeLanded : Memory → Nat → List Word → List Bool → Memory
  | m, a, w :: ws, l :: ls => Memory.writeLanded (if l then Memory.write m a w else m) (a + 4) ws ls
  | m, _, _, _ => m

/-- What an answered attempt leaves in memory (R137). DESIGN CHOICE: R178 has the producer word keep an older value after a FAULT, where
R137 leaves open whether the words of the WRITE are in memory; the row's marks decide for a producer write as for every other WRITE
(assumption log 38). -/
def Memory.attempt (m : Memory) (t : Transfer) (a : DramAnswer) : Memory :=
  match t, a with
  | .read _ _, _ => m
  | .write address data, .ok => m.writeWords address data
  | .write address data, .fault landed => m.writeLanded address data landed

/-- The words an answered attempt carries: those of a READ answered OK (R137). -/
def Memory.answerWords (m : Memory) (t : Transfer) (a : DramAnswer) : List Word :=
  match t, a with
  | .read address length, .ok => m.readWords address length
  | _, _ => []

/-- Whether an answer is OK. -/
def answerOk : DramAnswer → Bool
  | .ok => true
  | .fault _ => false

/-! ### Sizes and ranges -/

/-- The next multiple of 64 (spec/00, Sizes and addresses). -/
def roundUp64 (n : Nat) : Nat := 64 * ((n + 63) / 64)

/-- "Set" is C being nonzero: SET_GEOMETRY takes no C of 0 and unset is all 0 (R155). -/
def Geometry.isSet (g : Geometry) : Bool := g.c != 0

/-- The stride of a scan slot in bytes (1.1). -/
def Geometry.stride (g : Geometry) : Nat := roundUp64 (8 + 4 * g.c)

/-- The accumulator part of a scratch area, and the sums of a stack slot, in bytes (R20, R75). -/
def Geometry.tableSize (g : Geometry) : Nat := roundUp64 (8 * g.c * g.kMax)

/-- The scratch area size in bytes (R20). -/
def Geometry.areaSize (g : Geometry) : Nat := g.tableSize + roundUp64 (2 * g.lMax)

/-- The offset of the sums in a stack slot (R75). -/
def Geometry.sumsOffset (g : Geometry) : Nat := 1024 + roundUp64 (4 * g.c)

/-- The stack slot size in bytes (R75). -/
def Geometry.slotSize (g : Geometry) : Nat := g.sumsOffset + g.tableSize

/-- A range of bytes: from a base, of a size. -/
structure Range where
  base : Nat
  size : Nat
  deriving DecidableEq, Repr

/-- The first address after a range. -/
def Range.limit (r : Range) : Nat := r.size + r.base

/-- Whether a byte lies in a range. -/
def Range.contains (r : Range) (a : Nat) : Bool := r.base ≤ a && a < r.limit

/-- Whether two ranges share a byte. -/
def Range.meets (r q : Range) : Bool := r.base < q.limit && q.base < r.limit

/-- Whether a range lies wholly inside another. -/
def Range.within (r q : Range) : Bool := q.base ≤ r.base && r.limit ≤ q.limit

/-- The bytes of a RAW window (R120). -/
def RawWindow.range (w : RawWindow) (g : Geometry) : Range := ⟨w.base, w.slots * g.stride⟩

/-- The bytes of a STACK window (R120). -/
def StackWindow.range (w : StackWindow) (g : Geometry) : Range := ⟨w.base, w.slots * g.slotSize⟩

/-- The bytes of a SCRATCH window (R120). -/
def ScratchWindow.range (w : ScratchWindow) (g : Geometry) : Range := ⟨w.base, Config.scratchAreas * g.areaSize⟩

/-- The bytes of a PILOT window, its limit included (R59). -/
def PilotWindow.range (w : PilotWindow) : Range := ⟨w.base, w.limit + 1 - w.base⟩

/-- The bytes of each window that is on. -/
def State.rawRange (s : State) : Option Range := s.windows.raw.map (·.range s.geometry)
def State.stackRange (s : State) : Option Range := s.windows.stack.map (·.range s.geometry)
def State.scratchRange (s : State) : Option Range := s.windows.scratch.map (·.range s.geometry)
def State.pilotRange (s : State) : Option Range := s.windows.pilot.map (·.range)

/-- Whether a byte lies in a range that may be off: a window that is off holds no address (R120). -/
def inRange (r : Option Range) (a : Nat) : Bool := match r with
  | none => false
  | some r => r.contains a

/-- The Control Area base, CBASE times 64 GiB (R173). -/
def State.controlBase (s : State) : Nat := Config.controlAreaStep * s.cbase.toNat

/-- The Control Area (R119). -/
def State.controlRange (s : State) : Range := ⟨s.controlBase, Config.controlAreaSize⟩

/-- The bytes of stack slot `i` (R75); the base is 0 when the window is off (assumption log 27). -/
def State.slotRange (s : State) (i : Nat) : Range :=
  ⟨(s.windows.stack.map (·.base)).getD 0 + i * s.geometry.slotSize, s.geometry.slotSize⟩

/-- The stack slot an address lies in, when it lies in the STACK window (R75). -/
def State.stackSlotAt (s : State) (a : Nat) : Option Nat :=
  if inRange s.stackRange a then some ((a - (s.windows.stack.map (·.base)).getD 0) / s.geometry.slotSize) else none

/-- The address of the scratch area of Sweep Table entry `j` (R20). -/
def State.areaBase (s : State) (j : Nat) : Nat := (s.windows.scratch.map (·.base)).getD 0 + j * s.geometry.areaSize

/-- The bytes of a buffered write. -/
def PwbEntry.range (w : PwbEntry) : Range := ⟨w.address, 4 * w.data.length⟩

/-- Whether the Posted Write Buffer holds no write that touches a range: the clear-of-a-range form of R130. -/
def State.bufferClear (s : State) (r : Range) : Bool := s.pwb.all (fun w => !w.range.meets r)

/-- The bytes of a transfer. -/
def Transfer.range : Transfer → Range
  | .read address length => ⟨address, 4 * length⟩
  | .write address data => ⟨address, 4 * data.length⟩

/-- The extent of a pilot entry: ceil(L/2) words (R51). -/
def pilotExtent (address length : Nat) : Range := ⟨address, 4 * ((length + 1) / 2)⟩

/-- The extent of an entry. -/
def PilotEntry.extent (p : PilotEntry) : Range := pilotExtent p.address p.length

/-! ### Packed words and pieces of transfers -/

/-- The two pilot samples of a word, the lower-numbered in the lower half (R51). -/
def wordSamples (w : Word) : List PilotSample := [w.extractLsb' 0 16, w.extractLsb' 16 16]

/-- A word of two pilot samples (R51). -/
def sampleWord (low high : PilotSample) : Word := high ++ low

/-- The signed 64-bit values held by words, each with its low word first (R32, R76). -/
def wordsAccumulators : List Word → List Accumulator
  | low :: high :: rest => (high ++ low : BitVec 64) :: wordsAccumulators rest
  | _ => []

/-- The words of signed 64-bit values. -/
def accumulatorsWords (values : List Accumulator) : List Word :=
  values.flatMap (fun v => [v.extractLsb' 0 32, v.extractLsb' 32 32])

/-- How many of the remaining consecutive words the next transfer takes: those that lie in one 64-byte block (R137). -/
def pieceLength (address remaining : Nat) : Nat := min remaining (16 - address / 4 % 16)

/-- Whether a word of a table of 64-bit values belongs to lags 0 to k-1 of channels 0 to c-1, where channel x at lag y is value
x * kMax + y (R26, R83). -/
def inLags (c kMax k w : Nat) : Bool := w / (2 * kMax) < c && w % (2 * kMax) < 2 * k

/-- The next piece of those words at or after a word of a table that begins on a 64-byte boundary: its first word and its word
count, the rest of the run within the 64-byte block (R137). -/
def nextTablePiece (c kMax k cursor : Nat) : Option (Nat × Nat) :=
  let start := if cursor % (2 * kMax) < 2 * k then cursor else (cursor / (2 * kMax) + 1) * (2 * kMax)
  if inLags c kMax k start then
    some (start, ((List.range (16 - start % 16)).takeWhile (fun i => inLags c kMax k (start + i))).length)
  else none

/-! ### Tables -/

/-- The live sweep of a Sweep Table entry. -/
def State.sweep? (s : State) (e : Nat) : Option Sweep := (s.sweeps.table[e]?).join

/-- One Sweep Table entry replaced. -/
def State.setSweep (s : State) (e : Nat) (w : Option Sweep) : State :=
  { s with sweeps := { s.sweeps with table := s.sweeps.table.set e w } }

/-- The live sweeps with their entry indexes, in increasing index (R20). -/
def State.liveSweeps (s : State) : List (Nat × Sweep) :=
  s.sweeps.table.zipIdx.filterMap (fun p => p.1.map (fun w => (p.2, w)))

/-- The entry whose live sweep holds a tag (R20). -/
def State.findTag (s : State) (tag : Nat) : Option (Nat × Sweep) := s.liveSweeps.find? (fun p => p.2.tag == tag)

/-- The window end E = T + L + K - 2 (R20), computed exactly (R35). -/
def Sweep.windowEnd (w : Sweep) : Nat := w.start + w.length + w.lags - 2

/-- NOTICED, CORRELATING and STALLED are the correlation states (R21). -/
def SweepState.correlation : SweepState → Bool
  | .noticed => true
  | .correlating => true
  | .stalled => true
  | .foldWait => false
  | .folding => false

/-- Whether some sweep is in a correlation state (R40). -/
def State.anyCorrelation (s : State) : Bool := s.liveSweeps.any (fun p => p.2.state.correlation)

/-- A directory entry; an index outside the table reads as FREE (assumption log 27). -/
def State.slotEntry (s : State) (i : Nat) : DirEntry := s.directory.getD i DirEntry.free

/-- A directory entry replaced, its mirror marked stale (R96). -/
def State.setSlot (s : State) (i : Nat) (d : DirEntry) : State :=
  { s with directory := s.directory.set i d, reports := { s.reports with stale := s.reports.stale.set i true } }

/-- The entry that is not FREE and holds a source point (R77). -/
def State.findSourcePoint (s : State) (sp : Nat) : Option Nat :=
  s.directory.findIdx? (fun d => d.state != .free && d.sourcePoint == sp)

/-- A pilot entry; an index outside the table reads as EMPTY (assumption log 27). -/
def State.pilotEntry (s : State) (id : Nat) : PilotEntry := s.pilots.getD id PilotEntry.atReset

/-- A pilot entry replaced. -/
def State.setPilot (s : State) (id : Nat) (p : PilotEntry) : State := { s with pilots := s.pilots.set id p }

/-- A channel's entry. -/
def State.channel (s : State) (c : Nat) : Channel := s.channels.getD c Channel.atReset

/-- A channel's entry replaced. -/
def State.setChannel (s : State) (c : Nat) (x : Channel) : State := { s with channels := s.channels.set c x }

/-- A channel joins a set kept in increasing channel number without repeats. -/
def insertChannel (c : Nat) : List Nat → List Nat
  | [] => [c]
  | d :: rest => if c < d then c :: d :: rest else if c = d then d :: rest else d :: insertChannel c rest

/-- An item joins the tail of the Stack Unit work list (R82). -/
def State.appendStackItem (s : State) (i : StackItem) : State :=
  { s with stackUnit := { s.stackUnit with list := s.stackUnit.list ++ [i] } }

/-! ### Reports (R174 to R176) -/

/-- Ring records occupied: (producer - consumer) mod size (R175). -/
def Reports.occupied (r : Reports) : Nat := (r.producer + r.size - r.consumer) % r.size

/-- The record whose write is outstanding and not discarded. -/
def Reports.recordOut (r : Reports) : List Record := match r.out with
  | some ⟨.record x _, false⟩ => [x]
  | _ => []

/-- The record queue: the reports given a ring place but not yet written (R176). -/
def Reports.recordQueue (r : Reports) : List Record :=
  r.recordOut ++ r.handOrder.filterMap (fun h => match h with
    | .record x => some x
    | .producerReset => none
    | .slotWrite _ => none)

/-- Room exists (R176); there is none without a ring. -/
def Reports.hasRoom (r : Reports) : Bool := r.size != 0 && r.occupied + r.recordQueue.length < r.size - 1

/-- An entry joins the tail of the client's hand order (R177). -/
def Reports.hand (r : Reports) (h : List Handed) : Reports := { r with handOrder := r.handOrder ++ h }

/-- A COALESCED record of a pending kind (R176). -/
def PendingKind.coalesced (p : PendingKind) (newest : Option Nat) : Record := ⟨p.kind, true, p.subject, p.requester, p.count, newest⟩

/-- The pending kinds given are flushed, lowest number first, while room exists (R176). -/
def Reports.flushKinds (newest : Option Nat) : List PendingKind → Reports → Reports
  | [], r => { r with pendingKinds := [] }
  | p :: ps, r =>
    if r.hasRoom then Reports.flushKinds newest ps (r.hand [.record (p.coalesced newest)]) else { r with pendingKinds := p :: ps }

/-- A flush (R176). -/
def Reports.flush (r : Reports) (newest : Option Nat) : Reports := Reports.flushKinds newest r.pendingKinds r

/-- `n` lost reports of a kind join a pending set kept in kind-number order (R176). -/
def losePending (kind : ReportKind) (subject : Nat) (requester : Option Requester) (n : Nat) : List PendingKind → List PendingKind
  | [] => [⟨kind, min n Config.countCap, subject, requester⟩]
  | p :: ps =>
    if p.kind = kind then { p with count := min (p.count + n) Config.countCap } :: ps
    else if kind.code < p.kind.code then ⟨kind, min n Config.countCap, subject, requester⟩ :: p :: ps
    else p :: losePending kind subject requester n ps

/-- A record loses its ring place, with the number of reports it stands for (R176). -/
def Reports.loseRecord (r : Reports) (x : Record) : Reports :=
  { r with pendingKinds := losePending x.kind x.subject x.requester (if x.coalesced then x.detail else 1) r.pendingKinds }

/-- A submission: a flush, then the record queue when nothing is pending and room exists, else lost to pending (R176). -/
def Reports.submit (r : Reports) (newest : Option Nat) (kind : ReportKind) (subject : Nat) (requester : Option Requester)
    (detail : Nat) : Reports :=
  let f := r.flush newest
  let x : Record := ⟨kind, false, subject, requester, detail, newest⟩
  if f.pendingKinds.isEmpty && f.hasRoom then f.hand [.record x] else f.loseRecord x

/-- A block submits a report: it takes the newest admitted scan number held at this moment (R176). -/
def State.submit (s : State) (kind : ReportKind) (subject : Nat) (requester : Option Requester) (detail : Nat) : State :=
  { s with reports := s.reports.submit s.assembler.newest kind subject requester detail }

/-- A PART_FAULT without a requester (11.7). -/
def State.partFault (s : State) (op : PartOperation) (subject : Nat) : State := s.submit .partFault subject none op.code

/-! ### The memory port (R137 to R146) -/

/-- A client's place at the port. -/
def Port.client (p : Port) : Client → ClientPort
  | .engine => p.engine
  | .stackUnit => p.stackUnit
  | .pilotUnit => p.pilotUnit
  | .drqFetch => p.drqFetch
  | .reportUnit => p.reportUnit

/-- A client's place replaced. -/
def Port.setClient (p : Port) : Client → ClientPort → Port
  | .engine, x => { p with engine := x }
  | .stackUnit, x => { p with stackUnit := x }
  | .pilotUnit, x => { p with pilotUnit := x }
  | .drqFetch, x => { p with drqFetch := x }
  | .reportUnit, x => { p with reportUnit := x }

/-- The clients in cyclic order after one (R140). -/
def Client.after : Client → List Client
  | .engine => [.stackUnit, .pilotUnit, .drqFetch, .reportUnit, .engine]
  | .stackUnit => [.pilotUnit, .drqFetch, .reportUnit, .engine, .stackUnit]
  | .pilotUnit => [.drqFetch, .reportUnit, .engine, .stackUnit, .pilotUnit]
  | .drqFetch => [.reportUnit, .engine, .stackUnit, .pilotUnit, .drqFetch]
  | .reportUnit => [.engine, .stackUnit, .pilotUnit, .drqFetch, .reportUnit]

/-- The other side. -/
def Side.other : Side → Side
  | .forwarding => .part
  | .part => .forwarding

/-- A side is waiting when it has an outstanding transfer whose next attempt is due (R138, R139). -/
def Port.waiting (p : Port) : Side → Bool
  | .forwarding => p.forward.isSome && p.attempt != some .forwarding
  | .part => match p.current with
    | some _ => p.attempt != some .part
    | none => (Client.after .reportUnit).any (fun c => (p.client c).out.isSome)

/-- The slice setting of a side (R143). -/
def Port.slice (p : Port) : Side → Nat
  | .forwarding => p.forwardSlice
  | .part => p.partSlice

/-- The slice count is set to 0 when the side that does not hold the port begins to wait (R141): `p` before, `q` after a transfer
was presented on `side`. -/
def Port.beginsToWait (p q : Port) (side : Side) : Port :=
  if p.holder = side.other ∧ p.waiting side = false then { q with sliceCount := 0 } else q

/-- A client presents a transfer; behind an abandoned one it waits for that one's answer (R139, R146). -/
def Port.present (p : Port) (c : Client) (t : Transfer) : Port :=
  match (p.client c).out with
  | none => p.beginsToWait (p.setClient c ⟨some ⟨t, 0, false⟩, (p.client c).next⟩) .part
  | some o => p.setClient c ⟨some o, some t⟩

/-- A source of the forwarding side presents a transfer (R138). -/
def Port.presentForward (p : Port) (source : ForwardSource) (t : Transfer) : Port :=
  p.beginsToWait { p with forward := some (source, ⟨t, 0, false⟩) } .forwarding

/-- Work is abandoned: the client's outstanding transfer goes on, its answer is discarded, and nothing waits behind it (R146). -/
def Port.abandon (p : Port) (c : Client) : Port :=
  p.setClient c ⟨(p.client c).out.map (fun o => { o with abandoned := true }), none⟩

/-- A client's transfer is answered: its turn ends, and a transfer that waited behind it is presented (R140, R145). -/
def Port.clientAnswered (p : Port) (c : Client) : Port :=
  let q := { p.setClient c .none with current := none, attempt := none }
  match (p.client c).next with
  | none => q
  | some t => q.present c t

/-- The forwarding side's transfer is answered (R145). -/
def Port.forwardAnswered (p : Port) : Port := { p with forward := none, attempt := none }

/-- A side issues its attempt; the part side with no current transfer starts a turn (R140). -/
def Port.issue (p : Port) : Side → Port
  | .forwarding => { p with attempt := some .forwarding }
  | .part => match p.current with
    | some _ => { p with attempt := some .part }
    | none => match (Client.after p.rotation).find? (fun c => (p.client c).out.isSome) with
      | some c => { p with current := some c, rotation := c, attempt := some .part }
      | none => p

/-- The arbiter's decision, when no attempt is outstanding (R141); none is made while the DRAM has not finished with an attempt
that a line reset abandoned (R147). -/
def Port.arbitrate (p : Port) : Port :=
  if p.attempt.isSome || p.abandoned.isSome then p
  else match p.waiting p.holder, p.waiting p.holder.other with
    | true, false => p.issue p.holder
    | false, true => { p with holder := p.holder.other, sliceCount := 0 }.issue p.holder.other
    | true, true =>
      if p.sliceCount < p.slice p.holder then { p with sliceCount := p.sliceCount + 1 }.issue p.holder
      else { p with holder := p.holder.other, sliceCount := 1 }.issue p.holder.other
    | false, false => p

/-- The outstanding transfers of the part side. -/
def Port.partTransfers (p : Port) : List Transfer :=
  (Client.after .reportUnit).filterMap (fun c => (p.client c).out.map (·.transfer))

/-- A client presents a transfer. -/
def State.present (s : State) (c : Client) (t : Transfer) : State := { s with port := s.port.present c t }

/-! ### The boundary of an event (assumption log 4) -/

/-- The words of the Report Unit client's write, with its place in the Control Area (12.2, R177). -/
def State.reportTransfer (s : State) : ReportWrite → Transfer
  | .record x place => .write (s.controlBase + 0x8000 + 32 * place) x.words
  | .producer reset => .write (s.controlBase + 0x100) [word (if reset then 0 else s.reports.producer)]
  | .mirror i => .write (s.controlBase + 0x400 + 32 * i) (s.slotEntry i).mirrorWords
  | .slotWrite w => match w.role with
    | .results => .write (s.controlBase + 32 * w.slot + 4) w.words
    | .busy => .write (s.controlBase + 32 * w.slot + 28) w.words
    | .final => .write (s.controlBase + 32 * w.slot + 28) w.words

/-- The lowest-numbered stale entry (R96). -/
def Reports.lowestStale (r : Reports) : Option Nat := r.stale.findIdx? id

/-- The next write of the Report Unit's client, and the unit once it is chosen (R177): a producer write that is due; then the head
of the hand order, a record only once no entry is stale; then a mirror write. A mirror write clears its mark
(R96; assumption log 20). DESIGN CHOICE: this order holds after a line reset too, so that a command slot write or a SET_REPORTS producer
write handed meanwhile goes ahead of the FREE mirror records that R147, R173 and R180 call the first writes (assumption log 35). -/
def Reports.nextWrite (r : Reports) : Option (ReportWrite × Reports) :=
  let mirror (i : Nat) : ReportWrite × Reports := (.mirror i, { r with stale := r.stale.set i false })
  if r.producerDue then some (.producer false, { r with producerDue := false })
  else match r.handOrder with
    | .record x :: rest => match r.lowestStale with
      | some i => some (mirror i)
      | none => some (.record x r.producer, { r with handOrder := rest })
    | .producerReset :: rest => some (.producer true, { r with handOrder := rest })
    | .slotWrite w :: rest => some (.slotWrite w, { r with handOrder := rest })
    | [] => r.lowestStale.map mirror

/-- The Report Unit's client presents its next write when it has none outstanding. -/
def State.presentReport (s : State) : Port × Reports :=
  if s.port.reportUnit.out.isSome then (s.port, s.reports)
  else match s.reports.nextWrite with
    | none => (s.port, s.reports)
    | some (w, r) => (s.port.present .reportUnit (s.reportTransfer w), { r with out := some ⟨w, false⟩ })

/-- The DRQ fetch presents the read of the entry at the head of the fetch order (R108). -/
def State.presentFetch (s : State) (p : Port) : Port :=
  if p.drqFetch.out.isSome then p
  else match s.drq.fetchOrder with
    | [] => p
    | i :: _ => match (s.drq.entries[i]?).join with
      | none => p
      | some e => { p.present .drqFetch (.read e.address e.length) with fetchFor := some i }

/-- The Posted Write Buffer presents the write at its head (R128). -/
def State.presentDelivery (s : State) (p : Port) : Port :=
  match p.forward, s.pwb with
  | none, w :: _ => p.presentForward .delivery (.write w.address w.data)
  | _, _ => p

/-- The boundary of an event: the clients that choose their own next transfer present it, and the arbiter decides. It changes the
memory port and the Report Unit alone. -/
def State.settle (s : State) : State :=
  { s with
    port := (s.presentDelivery (s.presentFetch s.presentReport.1)).arbitrate
    reports := s.presentReport.2 }

/-- One event of the part, when it is due; one that is not due does not take place (assumption log 1). -/
def State.event (due : State → Bool) (effect : State → State) (s : State) : Host.Outcome State Fault Refusal :=
  if due s.settle then .next (effect s.settle).settle else .next s

/-! ### Commands (R150 to R154) -/

/-- A command slot as the Command Unit holds it. -/
def State.commandSlot (s : State) (j : Nat) : CommandSlot := s.commands.slots.getD j CommandSlot.atReset

/-- A command slot replaced. -/
def State.setCommandSlot (s : State) (j : Nat) (c : CommandSlot) : State :=
  { s with commands := { s.commands with slots := s.commands.slots.set j c } }

/-- The host tag in a slot's copy: bits 31:16 of word 0 (R181). -/
def CommandSlot.tag (c : CommandSlot) : BitVec 16 := (c.copy.getD 0 0).extractLsb' 16 16

/-- The results write and the final status write of a command that has ended (R150). -/
def CommandSlot.endWrites (c : CommandSlot) (j : Nat) (e : Ending) : List Handed :=
  let final : Handed := .slotWrite ⟨j, .final, [statusWord e.status c.tag]⟩
  match e.results with
  | none => [final]
  | some ws => [.slotWrite ⟨j, .results, ws⟩, final]

/-- The command at the head of the queue ends: its entry leaves the queue, and its slot writes are handed, at once or behind its
BUSY write (R150, R151, R153). -/
def State.endCommand (s : State) (status : Status) (results : Option (List Word) := none) : State :=
  match s.commands.queue with
  | [] => s
  | q :: rest =>
    let e : Ending := ⟨status, results⟩
    let c := s.commandSlot q.slot
    if s.commands.busyWaits.contains q.slot then
      { s with commands := { s.commands with
          queue := rest, progress := none, slots := s.commands.slots.set q.slot { c with ending := some e } } }
    else
      { s with
        commands := { s.commands with queue := rest, progress := none }
        reports := s.reports.hand (c.endWrites q.slot e) }

/-- The command at the head of the queue goes on in later events (R153). -/
def State.setProgress (s : State) (p : CommandProgress) : State := { s with commands := { s.commands with progress := some p } }

/-- The command at the head of the queue may begin and is of a kind (R153, R154). -/
def State.commandDue (k : CommandKind) (s : State) : Bool :=
  s.commands.progress.isNone && s.commands.queue.head?.any (fun q => q.command == some k)

/-- A command begins: the mode check, then its own rule (R154). -/
def State.beginCommand (k : CommandKind) (rule : QueueEntry → State → State) (s : State) : State :=
  match s.commands.queue with
  | [] => s
  | q :: _ => if k.available s.mode then rule q s else s.endCommand .badMode

/-- The event in which a command of a kind begins. -/
def State.command (k : CommandKind) (rule : QueueEntry → State → State) (s : State) : Host.Outcome State Fault Refusal :=
  State.event (State.commandDue k) (State.beginCommand k rule) s

end Sys2Proof.Machine
end

