-- ==== Sys2Proof/Machine/Pilots.lean ====
section
/-! DEFINITION. The Pilot Table and the Pilot Unit (spec/03 §3.1 to §3.5): DEFINE_PILOT with its check, REMOVE_PILOT, and what an
upstream write does to pilot extents. -/

namespace Sys2Proof.Machine

/-! ### Protection (R57, R58) -/

/-- The extent of the entry is protected (R57). -/
def PilotEntry.protects (p : PilotEntry) : Bool := p.state == .checking || p.useCount != 0

/-- A READY, unused entry whose extent an accepted write touches becomes FAULTED (R58). -/
def PilotEntry.written (r : Range) (p : PilotEntry) : PilotEntry :=
  if p.state = .ready ∧ p.useCount = 0 ∧ p.extent.meets r then { p with state := .faulted } else p

/-- The Pilot Table takes an accepted write (R58). -/
def State.pilotsWritten (s : State) (r : Range) : State := { s with pilots := s.pilots.map (PilotEntry.written r) }

/-! ### DEFINE_PILOT (R53) -/

/-- The status of the three checks of R53, none when the command is taken. -/
def State.defineStatus (s : State) (id address length : Nat) : Option Status :=
  if Config.pilotCount ≤ id ∨ address % 4 ≠ 0 ∨ length < 64 ∨ s.geometry.lMax < length then some .badOperand
  else if (s.pilotEntry id).useCount ≠ 0 ∨ (s.pilotEntry id).state = .checking then some .inUse
  else match s.pilotRange with
    | none => some .outOfWindow
    | some r => if (pilotExtent address length).within r then none else some .outOfWindow

/-- The rule of DEFINE_PILOT (R53): a command that is taken waits for the writes now in the buffer (R54). -/
def State.defineRule (q : QueueEntry) (s : State) : State :=
  let id := q.whole 1
  let address := q.wide 2
  let length := q.whole 4
  match s.defineStatus id address length with
  | some status => s.endCommand status
  | none =>
    (s.setPilot id { s.pilotEntry id with state := .checking, address := address, length := length, checksum := q.operand 5 }).setProgress
      (.definePilot id s.pwb.length false 0 0)

/-- DEFINE_PILOT begins. -/
def execDefinePilot (s : State) : Host.Outcome State Fault Refusal := s.command .definePilot State.defineRule

/-! ### The check (R52, R54) -/

/-- The words of a pilot's extent (R51). -/
def PilotEntry.words (p : PilotEntry) : Nat := (p.length + 1) / 2

/-- The check's read that begins at word `next`. -/
def State.issueCheck (s : State) (id next : Nat) (sum : Word) : State :=
  let p := s.pilotEntry id
  let n := pieceLength (p.address + 4 * next) (p.words - next)
  State.present (s.setProgress (.definePilot id 0 true (next + n) sum)) .pilotUnit (.read (p.address + 4 * next) n)

/-- The check may begin its reads: every write accepted before the command was taken has left the buffer (R54). -/
def State.checkStartDue (s : State) : Bool := match s.commands.progress with
  | some (.definePilot _ 0 false _ _) => true
  | _ => false

/-- The first read of a check (R54). -/
def State.startCheck (s : State) : State := match s.commands.progress with
  | some (.definePilot id _ _ _ _) => s.issueCheck id 0 0
  | _ => s

/-- Samples added to a running sum modulo 2^32, each with its sign extended (R52). -/
def addSamples (sum : Word) (samples : List PilotSample) : Word := samples.foldl (fun acc p => acc + p.signExtend 32) sum

/-- The samples that a read ending before word `next` brings; the upper half of the last word of an odd L is no sample (R51). -/
def PilotEntry.samplesRead (p : PilotEntry) (next : Nat) (words : List Word) : List PilotSample :=
  (words.flatMap wordSamples).take (p.length - 2 * (next - words.length))

/-- The check ends (R54). -/
def State.endCheck (s : State) (id : Nat) (state : PilotState) (status : Status) : State :=
  (s.setPilot id { s.pilotEntry id with state := state }).endCommand status

/-- A check read has been answered (R54). -/
def State.checkAnswered (s : State) (ok : Bool) (words : List Word) : State := match s.commands.progress with
  | some (.definePilot id _ _ next sum) =>
    let p := s.pilotEntry id
    if ok = false then (s.partFault .pilotCheck id).endCheck id .faulted .memFault
    else
      let total := addSamples sum (p.samplesRead next words)
      if next < p.words then s.issueCheck id next total
      else if total = p.checksum then s.endCheck id .ready .ok
      else s.endCheck id .faulted .checksum
  | _ => s

/-- A delivered or discarded write no longer holds up a check that waits for it (R130). -/
def CommandProgress.drained : CommandProgress → CommandProgress
  | .definePilot id drain started next sum => .definePilot id (drain - 1) started next sum
  | .setWindow w => .setWindow w
  | .openSourcePoint i => .openSourcePoint i
  | .engineReset freed scans => .engineReset freed scans

/-! ### REMOVE_PILOT (R55) -/

/-- The rule of REMOVE_PILOT (R55); the address, L and checksum of an EMPTY entry have no meaning and are left (assumption log 25). -/
def State.removeRule (q : QueueEntry) (s : State) : State :=
  let id := q.whole 1
  if Config.pilotCount ≤ id then s.endCommand .badOperand
  else if (s.pilotEntry id).useCount ≠ 0 then s.endCommand .inUse
  else (s.setPilot id { s.pilotEntry id with state := .empty }).endCommand .ok

/-- REMOVE_PILOT begins. -/
def execRemovePilot (s : State) : Host.Outcome State Fault Refusal := s.command .removePilot State.removeRule

end Sys2Proof.Machine
end

