-- ==== Sys2Proof/Machine/Sweeps.lean ====
section
/-! DEFINITION. The Sweep Table (spec/02): leaving the correlation states, the Stall Timer, mutes, and the commands NOTICE_SWEEP,
CANCEL_SWEEP and READ_SWEEP. -/

namespace Sys2Proof.Machine

/-! ### Leaving the correlation states (R36) -/

/-- R36 step 2: a CLEAR item still on the list is removed, and work that serves the sweep is told that it has left. -/
def Engine.sweepLeft (g : Engine) (e : Nat) : Engine where
  list := g.list.filter (· != .clear e)
  work := g.work.map (fun w => if w.entry = e then { w with left := true } else w)

/-- R36 step 2, R146: the first transfer of that work, when it still waits behind an abandoned one, is not presented. -/
def Port.sweepLeft (p : Port) (work : Option EngineWork) (e : Nat) : Port :=
  if work.any (fun w => w.entry == e) then { p with engine := { p.engine with next := none } } else p

/-- R36 step 3: a STORED pilot's use count is decreased by one. -/
def State.releasePilot (s : State) : PilotRef → State
  | .stored id => s.setPilot id { s.pilotEntry id with useCount := (s.pilotEntry id).useCount - 1 }
  | .captured _ => s

/-- R36 step 5: the Stall Timer stops when no sweep remains in a correlation state. -/
def State.stopIdleTimer (s : State) : State :=
  if s.anyCorrelation then s else { s with sweeps := { s.sweeps with stallTimer := none } }

/-- The sweep of an entry takes an outcome and leaves the correlation states (R36). -/
def State.leaveCorrelation (s : State) (e : Nat) (o : SweepOutcome) : State :=
  match s.sweep? e with
  | none => s
  | some w =>
    let s1 := s.setSweep e (some { w with outcome := some o, state := .foldWait })
    let s2 := { s1 with engine := s1.engine.sweepLeft e, port := s1.port.sweepLeft s1.engine.work e }
    ((s2.releasePilot w.pilot).appendStackItem (.fold e)).stopIdleTimer

/-- Several sweeps leave, in the order of their entries. -/
def State.leaveAll (s : State) (entries : List Nat) (o : SweepOutcome) : State :=
  entries.foldl (fun s e => s.leaveCorrelation e o) s

/-- The entries of the live sweeps that meet a test, in increasing index. -/
def State.entriesWhere (s : State) (p : Sweep → Bool) : List Nat := (s.liveSweeps.filter (fun x => p x.2)).map (·.1)

/-- Every live sweep changed in place. -/
def State.mapSweeps (s : State) (f : Sweep → Sweep) : State :=
  { s with sweeps := { s.sweeps with table := s.sweeps.table.map (Option.map f) } }

/-- The abort of R43 and R168 step 1: every sweep in a correlation state, in increasing entry index. -/
def State.modeAbort (s : State) : State := s.leaveAll (s.entriesWhere (fun w => w.state.correlation)) .modeAborted

/-! ### The Stall Timer (R40 to R42) -/

/-- CORRELATING becomes STALLED. -/
def Sweep.stall (w : Sweep) : Sweep := if w.state = .correlating then { w with state := .stalled } else w

/-- STALLED becomes CORRELATING. -/
def Sweep.resume (w : Sweep) : Sweep := if w.state = .stalled then { w with state := .correlating } else w

/-- The expiry of the Stall Timer (R41). DESIGN CHOICE: R41 gives no order in which several STALLED sweeps leave, and so none for their
FOLD items; they leave in increasing entry index (assumption log 32). -/
def State.stallExpire (s : State) : State :=
  let s1 := s.leaveAll (s.entriesWhere (fun w => w.state == .stalled)) .stallAborted
  let n := (s1.entriesWhere (fun w => w.state == .correlating)).length
  let s2 := s1.mapSweeps Sweep.stall
  let s3 := if n = 0 then s2 else s2.submit .streamStalled 0 none n
  { s3 with sweeps := { s3.sweeps with stallTimer := if s3.anyCorrelation then some s3.sweeps.stallPeriod else none } }

/-- A running Stall Timer is reloaded (R40). -/
def State.reloadStall (s : State) : State :=
  { s with sweeps := { s.sweeps with stallTimer := s.sweeps.stallTimer.map (fun _ => s.sweeps.stallPeriod) } }

/-- A release returns the STALLED sweeps to CORRELATING; its report is made apart, after the Scan Assembler's (R42). -/
def State.resumeStalled (s : State) : State := s.mapSweeps Sweep.resume

/-- How many sweeps a release would resume (R42). -/
def State.stalledCount (s : State) : Nat := (s.entriesWhere (fun w => w.state == .stalled)).length

/-! ### Mutes (R30) -/

/-- A mute reaches the sweep: it has an active set that is not frozen. -/
def SweepState.mutable : SweepState → Bool
  | .noticed => false
  | .correlating => true
  | .stalled => true
  | .foldWait => true
  | .folding => false

/-- The channel leaves the active set of every live sweep that the mute reaches (R30, R68). -/
def State.muteSweeps (s : State) (c : Nat) : State :=
  s.mapSweeps (fun w => if w.state.mutable then { w with activeSet := w.activeSet.map (fun a => a.filter (· != c)) } else w)

/-! ### NOTICE_SWEEP (R22, R23) -/

/-- Check 1 of R22 on the pilot description. -/
def NoticePilot.inRange (p : NoticePilot) (g : Geometry) : Bool := match p with
  | .stored id => id < Config.pilotCount
  | .captured aux length => aux < g.c && 64 ≤ length && length ≤ g.lMax
  | .neither => false

/-- Check 6 of R22. -/
def State.noticePilotReady (s : State) : NoticePilot → Bool
  | .stored id => (s.pilotEntry id).state == .ready
  | .captured _ _ => true
  | .neither => false

/-- A start scan is LATE when a newest admitted scan number is held and it is not greater (R4). -/
def State.isLate (s : State) (start : Nat) : Bool := match s.assembler.newest with
  | none => false
  | some n => start ≤ n

/-- The lowest free Sweep Table entry (R23). -/
def State.freeSweepEntry (s : State) : Option Nat := s.sweeps.table.findIdx? Option.isNone

/-- The final status of the eight checks of R22, first match. -/
def State.noticeStatus (s : State) (o : NoticeOperands) : Status :=
  if o.tag = 0 ∨ o.sourcePoint = 0 ∨ Config.scanTop < o.start ∨ o.pilot.inRange s.geometry = false then .badOperand
  else if (s.findTag o.tag).isSome then .duplicate
  else match s.findSourcePoint o.sourcePoint with
    | none => .unknown
    | some i =>
      let d := s.slotEntry i
      if d.state ≠ .opened then .badState
      else if d.notices = d.foldTarget then .noRoom
      else if s.noticePilotReady o.pilot = false then .notReady
      else if s.isLate o.start then .late
      else if s.freeSweepEntry.isNone then .noRoom
      else .ok

/-- The sweep that an admission fills in (R23): L of a stored pilot is the pilot entry's, K, patch and gap are the slot's. -/
def State.newSweep (s : State) (o : NoticeOperands) (slot : Nat) : Sweep :=
  let d := s.slotEntry slot
  { tag := o.tag, sourcePoint := o.sourcePoint, slot := slot, start := o.start
    pilot := match o.pilot with
      | .stored id => .stored id
      | .captured aux _ => .captured aux
      | .neither => .captured 0
    length := match o.pilot with
      | .stored id => (s.pilotEntry id).length
      | .captured _ length => length
      | .neither => 0
    lags := d.lags, first := d.first, last := d.last, gapFirst := d.gapFirst, gapLast := d.gapLast
    startingSet := none, activeSet := none, holedSet := [], state := .noticed, lastScan := none, gapped := false
    outcome := none, heldSample := 0 }

/-- R23: a STORED pilot's use count is increased by one. -/
def State.claimPilot (s : State) : NoticePilot → State
  | .stored id => s.setPilot id { s.pilotEntry id with useCount := (s.pilotEntry id).useCount + 1 }
  | .captured _ _ => s
  | .neither => s

/-- The admission of R23 into an entry, for a slot. -/
def State.enterSweep (s : State) (o : NoticeOperands) (slot e : Nat) : State :=
  let d := s.slotEntry slot
  let s1 := s.setSweep e (some (s.newSweep o slot))
  let s2 := (s1.setSlot slot { d with notices := d.notices + 1 }).claimPilot o.pilot
  let s3 := { s2 with engine := { s2.engine with list := s2.engine.list ++ [.clear e] } }
  if s.anyCorrelation then s3
  else { s3 with sweeps := { s3.sweeps with stallTimer := some s3.sweeps.stallPeriod } }

/-- The rule of NOTICE_SWEEP (R22, R23). -/
def State.noticeRule (q : QueueEntry) (s : State) : State :=
  let o := q.noticeOperands
  match s.noticeStatus o, s.findSourcePoint o.sourcePoint, s.freeSweepEntry with
  | .ok, some slot, some e => (s.enterSweep o slot e).endCommand .ok
  | status, _, _ => s.endCommand status

/-- NOTICE_SWEEP begins. -/
def execNoticeSweep (s : State) : Host.Outcome State Fault Refusal := s.command .noticeSweep State.noticeRule

/-! ### CANCEL_SWEEP (R38) and READ_SWEEP (R46) -/

/-- The rule of CANCEL_SWEEP (R38). -/
def State.cancelRule (q : QueueEntry) (s : State) : State :=
  match s.findTag (q.low 1) with
  | none => s.endCommand .unknown
  | some (e, w) =>
    if w.state.correlation then (s.leaveCorrelation e .cancelled).endCommand .ok else s.endCommand .tooLate

/-- CANCEL_SWEEP begins. -/
def execCancelSweep (s : State) : Host.Outcome State Fault Refusal := s.command .cancelSweep State.cancelRule

/-- The size of a channel set that may be absent: 0 before correlation starts (R46). -/
def setSize : Option (List Nat) → Nat
  | none => 0
  | some a => a.length

/-- The result words of READ_SWEEP (R46, 12.3). -/
def Sweep.resultWords (w : Sweep) : List Word :=
  word (w.state.code + 2 ^ 8 * outcomeCode w.outcome + 2 ^ 16 * flag w.gapped) ::
    (scanWords w.lastScan ++ [word (setSize w.activeSet), word w.holedSet.length, 0])

/-- The rule of READ_SWEEP (R46). -/
def State.readSweepRule (q : QueueEntry) (s : State) : State :=
  match s.findTag (q.low 1) with
  | none => s.endCommand .unknown
  | some (_, w) => s.endCommand .ok (some w.resultWords)

/-- READ_SWEEP begins. -/
def execReadSweep (s : State) : Host.Outcome State Fault Refusal := s.command .readSweep State.readSweepRule

end Sys2Proof.Machine
end

