-- ==== Sys2Proof/Machine/Channels.lean ====
section
/-! DEFINITION. The Trace Edit Unit (spec/04): the edit test, scores and conditions, and the commands MUTE_CHANNEL, UNMUTE_CHANNEL
and READ_CHANNEL. -/

namespace Sys2Proof.Machine

/-! ### The edit test (R64 to R68) -/

/-- A verdict (R66). -/
inductive Verdict where
  | accepted
  | rejected
  deriving DecidableEq, Repr

/-- The peak of a trace (R66). -/
def peak (values : List Accumulator) : Nat := values.foldl (fun m v => max m v.toInt.natAbs) 0

/-- The verdict of R66. -/
def verdict (limit : Nat) (values : List Accumulator) : Verdict :=
  if limit = 0 ∨ peak values ≤ limit then .accepted else .rejected

/-- The score after a verdict (R67). -/
def Channel.newScore (x : Channel) (limit : Nat) (v : Verdict) : Nat :=
  if x.condition = .muted ∨ limit = 0 then x.score
  else match v with
    | .rejected => min (x.score + 4) 255
    | .accepted => x.score - 1

/-- The condition from a new score (R64). -/
def Condition.next (c : Condition) (score : Nat) : Condition := match c with
  | .good => if score < Config.suspectThreshold then .good else .suspect
  | .suspect =>
    if score < Config.suspectThreshold then .good else if score < Config.muteThreshold then .suspect else .muted
  | .muted => .muted

/-- A channel has entered MUTED: the report, then the mute's reach (R68). -/
def State.channelMuted (s : State) (c : Nat) (cause : ConditionCause) : State :=
  (s.submit .channelMuted c none cause.code).muteSweeps c

/-- The report of a change of condition by a test, with the mute's reach (R64). -/
def State.conditionChanged (s : State) (c score : Nat) (before after : Condition) : State := match before, after with
  | .good, .suspect => s.submit .channelSuspect c none score
  | .suspect, .good => s.submit .channelClear c none ConditionCause.byScore.code
  | .suspect, .muted => s.channelMuted c .byScore
  | _, _ => s

/-- The score and condition after a verdict; an unchanged score leaves the condition (R67). -/
def State.applyVerdict (s : State) (c limit : Nat) (v : Verdict) : State :=
  let x := s.channel c
  let n := x.newScore limit v
  if n = x.score then s
  else (s.setChannel c ⟨n, x.condition.next n⟩).conditionChanged c n x.condition (x.condition.next n)

/-! ### Channel commands (R70 to R72) -/

/-- The rule of MUTE_CHANNEL (R70). -/
def State.muteRule (q : QueueEntry) (s : State) : State :=
  let c := q.whole 1
  if s.geometry.c ≤ c then s.endCommand .badOperand
  else if (s.channel c).condition = .muted then s.endCommand .ok
  else ((s.setChannel c { s.channel c with condition := .muted }).channelMuted c .byCommand).endCommand .ok

/-- MUTE_CHANNEL begins. -/
def execMuteChannel (s : State) : Host.Outcome State Fault Refusal := s.command .muteChannel State.muteRule

/-- The rule of UNMUTE_CHANNEL (R71). -/
def State.unmuteRule (q : QueueEntry) (s : State) : State :=
  let c := q.whole 1
  if s.geometry.c ≤ c then s.endCommand .badOperand
  else
    let s1 := s.setChannel c ⟨0, .good⟩
    if (s.channel c).condition = .good then s1.endCommand .ok
    else (s1.submit .channelClear c none ConditionCause.byCommand.code).endCommand .ok

/-- UNMUTE_CHANNEL begins. -/
def execUnmuteChannel (s : State) : Host.Outcome State Fault Refusal := s.command .unmuteChannel State.unmuteRule

/-- The result words of READ_CHANNEL (12.3). -/
def Channel.resultWords (x : Channel) : List Word := [word x.score, word x.condition.code, 0, 0, 0, 0]

/-- The rule of READ_CHANNEL (R72). -/
def State.readChannelRule (q : QueueEntry) (s : State) : State :=
  let c := q.whole 1
  if s.geometry.c ≤ c then s.endCommand .badOperand else s.endCommand .ok (some (s.channel c).resultWords)

/-- READ_CHANNEL begins. -/
def execReadChannel (s : State) : Host.Outcome State Fault Refusal := s.command .readChannel State.readChannelRule

end Sys2Proof.Machine
end

