-- ==== Sys2Proof/Machine/Drq.lean ====
section
/-! DEFINITION. The Deferred Read Queue (spec/06): deferral, answers for sealed slots, fetches, countdowns and discards. The Window
Decoder calls `deferRead` and `sealedRead`, the Stack Unit `fetchAtSeal` and `discardSlot`. -/

namespace Sys2Proof.Machine

/-- The entry in use of an index. -/
def State.drqEntry (s : State) (i : Nat) : Option DrqEntry := (s.drq.entries[i]?).join

/-- One entry replaced. -/
def State.setDrq (s : State) (i : Nat) (e : Option DrqEntry) : State :=
  { s with drq := { s.drq with entries := s.drq.entries.set i e } }

/-- The entries in use with their indexes, in increasing index (R102). -/
def State.drqInUse (s : State) : List (Nat × DrqEntry) :=
  s.drq.entries.zipIdx.filterMap (fun p => p.1.map (fun e => (p.2, e)))

/-- The entry that holds a requester, address and length (R102). -/
def State.drqFind (s : State) (requester : Requester) (address length : Nat) : Option (Nat × DrqEntry) :=
  s.drqInUse.find? (fun p => p.2.requester == requester && p.2.address == address && p.2.length == length)

/-- An entry is freed: it leaves the fetch order, and the answer of a fetch issued for it is discarded (R110). -/
def State.freeDrq (s : State) (i : Nat) : State :=
  { s with
    drq := { s.drq with entries := s.drq.entries.set i none, fetchOrder := s.drq.fetchOrder.filter (· != i) }
    port := { s.port with fetchFor := if s.port.fetchFor = some i then none else s.port.fetchFor } }

/-- An entry is freed with its READ_DISCARDED report (R111 to R113). -/
def State.discardRead (s : State) (reason : DiscardReason) (p : Nat × DrqEntry) : State :=
  (s.freeDrq p.1).submit .readDiscarded p.2.address (some p.2.requester) reason.code

/-- Every entry of a slot is freed, in increasing entry index (R112, R113). -/
def State.discardSlot (s : State) (slot : Nat) (reason : DiscardReason) : State :=
  (s.drqInUse.filter (fun p => p.2.slot == slot)).foldl (fun s p => s.discardRead reason p) s

/-- An entry's countdown is reloaded with the discard period (R111). -/
def State.reloadDrq (s : State) (i : Nat) (e : DrqEntry) : State := s.setDrq i (some { e with countdown := s.drq.period })

/-- A read of an OPEN, COMPLETE or SEALING slot (R104). -/
def State.deferRead (s : State) (requester : Requester) (address length slot : Nat) : UpstreamAnswer × State :=
  match s.drqFind requester address length with
  | some (i, e) => (.defer, s.reloadDrq i e)
  | none => match s.drq.entries.findIdx? Option.isNone with
    | some i => (.defer, s.setDrq i (some ⟨requester, address, length, slot, .waiting, [], s.drq.period⟩))
    | none => (.retry, s)

/-- A read of a SEALED slot: the answer from its matching entry, or none when it is a pass-through read (R105). A WAITING match is
not reached (R103; assumption log 27). -/
def State.sealedRead (s : State) (requester : Requester) (address length : Nat) : Option (UpstreamAnswer × State) :=
  match s.drqFind requester address length with
  | none => none
  | some (i, e) => match e.state with
    | .ready => some (.data e.buffer, s.freeDrq i)
    | .faulted => some (.abort, s.freeDrq i)
    | .fetching => some (.defer, s.reloadDrq i e)
    | .waiting => none

/-- A WAITING entry of the slot becomes FETCHING; its countdown goes on (R107). -/
def DrqEntry.fetchAtSeal (slot : Nat) (e : DrqEntry) : DrqEntry :=
  if e.slot = slot ∧ e.state = .waiting then { e with state := .fetching } else e

/-- A seal has ended: the WAITING entries of the slot become FETCHING and join the fetch order (R107). -/
def State.fetchAtSeal (s : State) (slot : Nat) : State :=
  let waiting := (s.drqInUse.filter (fun p => p.2.slot == slot && p.2.state == .waiting)).map (·.1)
  { s with drq := { s.drq with
    entries := s.drq.entries.map (Option.map (DrqEntry.fetchAtSeal slot))
    fetchOrder := s.drq.fetchOrder ++ waiting } }

/-- A fetch has been answered, for the entry for which it was issued when that entry is still FETCHING (R108 to R110). -/
def State.fetchAnswered (s : State) (ok : Bool) (words : List Word) : State :=
  let s1 : State := { s with port := { s.port with fetchFor := none } }
  match s.port.fetchFor with
  | none => s1
  | some i => match s.drqEntry i with
    | none => s1
    | some e =>
      if e.state = .fetching then
        let e1 := { e with state := if ok then .ready else .faulted, buffer := if ok then words else [], countdown := s.drq.period }
        let s2 := s1.setDrq i (some e1)
        let s3 : State := { s2 with drq := { s2.drq with fetchOrder := s2.drq.fetchOrder.filter (· != i) } }
        if ok then s3 else s3.submit .partFault e.address (some e.requester) PartOperation.drqFetch.code
      else s1

/-- A countdown is lowered by one; at 0 the entry is freed with TIMEOUT (R111). -/
def State.countDown (s : State) (i : Nat) : State := match s.drqEntry i with
  | none => s
  | some e =>
    if e.countdown ≤ 1 then s.discardRead .timeout (i, e) else s.setDrq i (some { e with countdown := e.countdown - 1 })

end Sys2Proof.Machine
end

