-- ==== Sys2Proof/Machine/Engine.lean ====
section
/-! DEFINITION. The Correlation Engine (spec/02 §2.3 to §2.6, R60, R61): CLEAR and PROCESS items, transfer by transfer. The answers
reach it through Sys2Proof/Machine/Answers.lean. -/

namespace Sys2Proof.Machine

/-! ### The scan in hand (R15, R27) -/

/-- The staging entry of a released scan; none leaves an entry without samples (assumption log 27). -/
def State.stagedScan (s : State) (t : Nat) : StagingEntry :=
  (s.assembler.staging.find? (fun e => e.released && e.scan == t)).getD ⟨t, 0, .complete, [], [], true⟩

/-- The raw sample of a channel: the received value, or zero for a holed channel (R15). -/
def StagingEntry.sample (e : StagingEntry) (c : Nat) : RawSample := (e.samples.lookup c).getD 0

/-- Whether a channel is holed in the scan (R29). -/
def StagingEntry.isHoled (e : StagingEntry) (c : Nat) : Bool := e.holed.contains c

/-- The scan's entry is freed and the item finishes (R16, R27). -/
def State.finishProcess (s : State) (t : Nat) : State :=
  { s with
    assembler := { s.assembler with staging := s.assembler.staging.filter (fun e => !(e.released && e.scan == t)) }
    engine := { s.engine with work := none } }

/-- The engine issues a transfer for its work (R26, R32). -/
def State.issueEngine (s : State) (w : EngineWork) (t : Transfer) : State :=
  State.present { s with engine := { s.engine with work := some w } } .engine t

/-! ### CLEAR (R26) -/

/-- The next piece of a sweep's scratch area to zero: its accumulators, then the words of its captured pilot. -/
def State.sweepClearPiece (s : State) (w : Sweep) (cursor : Nat) : Option (Nat × Nat) :=
  match nextTablePiece s.geometry.c s.geometry.kMax w.lags cursor with
  | some piece => some piece
  | none => match w.pilot with
    | .stored _ => none
    | .captured _ =>
      let first := s.geometry.tableSize / 4
      let start := max cursor first
      if start < first + (w.length + 1) / 2 then
        some (start, pieceLength (4 * start) (first + (w.length + 1) / 2 - start))
      else none

/-- The CLEAR goes on at a word of the area, or finishes. -/
def State.continueClear (s : State) (e cursor : Nat) : State :=
  match s.sweep? e with
  | none => { s with engine := { s.engine with work := none } }
  | some w => match s.sweepClearPiece w cursor with
    | none => { s with engine := { s.engine with work := none } }
    | some (start, n) =>
      s.issueEngine ⟨e, w.tag, false, .clear (start + n)⟩ (.write (s.areaBase e + 4 * start) (List.replicate n 0))

/-! ### Correlation of one sweep at one scan (R27 to R35) -/

/-- The starting set: the patch without the gap range and without the MUTED channels (R28). -/
def State.startingSet (s : State) (w : Sweep) : List Nat :=
  (List.range (w.last + 1)).filter (fun c =>
    w.first ≤ c && !(w.gapFirst ≤ c && c ≤ w.gapLast) && (s.channel c).condition != .muted)

/-- Correlation starts: S0 and the active set are fixed (R28). -/
def State.fixSets (s : State) (w : Sweep) : Sweep :=
  { w with startingSet := some (s.startingSet w), activeSet := some (s.startingSet w) }

/-- Whether scans before `t` are missing from the window (R34). -/
def Sweep.missesBefore (w : Sweep) (t : Nat) : Bool := match w.state, w.lastScan with
  | .noticed, _ => w.start < t
  | _, none => false
  | _, some m => m + 1 < t

/-- The gap check (R34); the held sample is 0 when the scan before was never processed (R61; assumption log 15). -/
def Sweep.gapCheck (w : Sweep) (t : Nat) : Sweep := if w.missesBefore t then { w with gapped := true, heldSample := 0 } else w

/-- The outcome of a window that has ended (R35). -/
def Sweep.windowOutcome (w : Sweep) : SweepOutcome := if w.gapped then .gapped else .stacked

/-- The active set, empty while absent. -/
def Sweep.active (w : Sweep) : List Nat := w.activeSet.getD []

/-- Several channels join a set. -/
def insertChannels (cs set : List Nat) : List Nat := cs.foldl (fun acc c => insertChannel c acc) set

/-- The holed channels at the front of a list of channels, and the first channel that is not holed (R27 step 3). -/
def splitHoled (e : StagingEntry) : List Nat → List Nat × Option Nat
  | [] => ([], none)
  | c :: cs =>
    if e.isHoled c then
      let r := splitHoled e cs
      (c :: r.1, r.2)
    else ([], some c)

/-- The lowest lag that a scan touches (R31). -/
def Sweep.lowLag (w : Sweep) (d : Nat) : Nat := d + 1 - w.length

/-- The highest lag that a scan touches (R31). -/
def Sweep.highLag (w : Sweep) (d : Nat) : Nat := min (w.lags - 1) d

/-- The accumulators of a channel that the next piece takes from a lag on (R32). -/
def accumulatorPiece (g : Geometry) (channel lag high : Nat) : Nat := min (high + 1 - lag) (8 - (channel * g.kMax + lag) % 8)

/-- The address of an accumulator (R32). -/
def State.accumulatorAddress (s : State) (e channel lag : Nat) : Nat := s.areaBase e + 8 * (channel * s.geometry.kMax + lag)

/-- The read of the next piece of a channel (R32). -/
def State.issueAccumulate (s : State) (t e : Nat) (w : Sweep) (first : Nat) (pilot : List PilotSample) (channel lag : Nat) : State :=
  let n := accumulatorPiece s.geometry channel lag (w.highLag (t - w.start))
  s.issueEngine ⟨e, w.tag, false, .process t (.accumulateRead first pilot channel lag n)⟩
    (.read (s.accumulatorAddress e channel lag) (2 * n))

/-- Step 4 of R27: the last scan processed, and the end of the window when t = E (R35). -/
def State.finishSweep (s : State) (t e : Nat) (w : Sweep) : State :=
  let s1 := s.setSweep e (some { w with lastScan := some t })
  if t = w.windowEnd then s1.leaveCorrelation e w.windowOutcome else s1

/-- Step 3 of R27 over the channels given: the holed ones up to the first that has a sample are marked (R29), and that one's
accumulation begins; with none left the sweep has been served. True: a transfer is outstanding. -/
def State.serveChannels (s : State) (t e : Nat) (w : Sweep) (first : Nat) (pilot : List PilotSample) (channels : List Nat) :
    Bool × State :=
  let r := splitHoled (s.stagedScan t) channels
  let w1 := { w with holedSet := insertChannels r.1 w.holedSet }
  match r.2 with
  | some c => (true, State.issueAccumulate (s.setSweep e (some w1)) t e w1 first pilot c (w1.lowLag (t - w1.start)))
  | none => (false, s.finishSweep t e w1)

/-- Where the pilot samples of a sweep begin: the stored pilot's extent, or the capture part (R33, R60). -/
def State.pilotBase (s : State) (e : Nat) (w : Sweep) : Nat := match w.pilot with
  | .stored id => (s.pilotEntry id).address
  | .captured _ => s.areaBase e + s.geometry.tableSize

/-- The word of the last pilot sample that a scan needs, min(L-1, d) (R33). -/
def Sweep.lastPilotWord (w : Sweep) (d : Nat) : Nat := min (w.length - 1) d / 2

/-- The word of the first pilot sample that a scan needs, max(0, d-K+1) (R33). -/
def Sweep.firstPilotWord (w : Sweep) (d : Nat) : Nat := (d + 1 - w.lags) / 2

/-- The pilot read that begins at word `next` (R33). -/
def State.issuePilot (s : State) (t e : Nat) (w : Sweep) (first next : Nat) (got : List PilotSample) : State :=
  let a := s.pilotBase e w + 4 * next
  let n := pieceLength a (w.lastPilotWord (t - w.start) + 1 - next)
  s.issueEngine ⟨e, w.tag, false, .process t (.pilot first (next + n) got)⟩ (.read a n)

/-- The pilot reads and step 3; the reads are skipped when no channel of the active set has a sample that is not holed (R33). -/
def State.servePilot (s : State) (t e : Nat) (w : Sweep) : Bool × State :=
  if w.active.any (fun c => !(s.stagedScan t).isHoled c) then
    let word := w.firstPilotWord (t - w.start)
    (true, s.issuePilot t e w (2 * word) word [])
  else s.serveChannels t e w 0 [] w.active

/-- Captured pilot sample d: the aux channel's raw sample, shifted right by 8 with its sign (R61). -/
def State.capturedSample (s : State) (t aux : Nat) : PilotSample :=
  let e := s.stagedScan t
  if e.isHoled aux then 0 else ((e.sample aux).sshiftRight 8).setWidth 16

/-- Step 2 of R27, when it applies: the capture write and the held sample (R61). -/
def State.serveCapture (s : State) (t e : Nat) (w : Sweep) : Bool × State :=
  let d := t - w.start
  match w.pilot with
  | .stored _ => s.servePilot t e w
  | .captured aux =>
    if d < w.length then
      let v := s.capturedSample t aux
      let cell := if d % 2 = 0 then sampleWord v 0 else sampleWord w.heldSample v
      let held : PilotSample := if d % 2 = 0 then v else 0
      (true, State.issueEngine (s.setSweep e (some { w with heldSample := held })) ⟨e, w.tag, false, .process t .capture⟩
        (.write (s.areaBase e + s.geometry.tableSize + 4 * (d / 2)) [cell]))
    else s.servePilot t e w

/-- PROCESS(t) serves a sweep (R27): the gap check, the start of correlation or the end of the window, then the rest. A scan beyond
E adds nothing and leaves the last scan processed as it was (R34; assumption log 16). -/
def State.serveSweep (s : State) (t e : Nat) (w : Sweep) : Bool × State :=
  let w1 := w.gapCheck t
  if w1.windowEnd < t then
    let w2 := if w1.state = .noticed then s.fixSets w1 else w1
    (false, (s.setSweep e (some w2)).leaveCorrelation e w2.windowOutcome)
  else
    let w2 := if w1.state = .noticed then { s.fixSets w1 with state := .correlating } else w1
    State.serveCapture (s.setSweep e (some w2)) t e w2

/-- PROCESS(t) goes on with the entries given: each sweep in a correlation state whose start scan is reached is served, up to the
first that waits for a transfer; after the last the item finishes (R27). -/
def State.serveFrom (t : Nat) : List Nat → State → State
  | [], s => s.finishProcess t
  | e :: rest, s => match s.sweep? e with
    | none => State.serveFrom t rest s
    | some w =>
      if w.state.correlation && w.start ≤ t then
        match s.serveSweep t e w with
        | (true, s1) => s1
        | (false, s1) => State.serveFrom t rest s1
      else State.serveFrom t rest s

/-- The entries after one, or all of them. -/
def entriesAfter (e : Nat) : List Nat := (List.range Config.sweepCount).filter (fun x => e < x)

/-- The item goes on with the sweeps after the one in hand. -/
def State.serveRest (s : State) (t e : Nat) : State :=
  State.serveFrom t (entriesAfter e) { s with engine := { s.engine with work := none } }

/-- The outcome of serving the sweep in hand a little further. -/
def State.serveOn (t e : Nat) : Bool × State → State
  | (true, s) => s
  | (false, s) => s.serveRest t e

/-! ### Answers to engine transfers (R31, R32, R44, R45) -/

/-- The terms of R31 added to accumulators from a lag on: p[d-k] times the raw sample, exact (assumption log 28). -/
def addTerms (d first : Nat) (pilot : List PilotSample) (r : RawSample) : Nat → List Accumulator → List Accumulator
  | _, [] => []
  | k, v :: vs =>
    BitVec.ofInt 64 (v.toInt + (pilot.getD (d - k - first) 0).toInt * r.toInt) :: addTerms d first pilot r (k + 1) vs

/-- The operation a PART_FAULT names (R44). DEDUCED: a pilot read of a CAPTURED sweep, from the capture part, is PILOT_READ too, as R33
speaks of the pilot reads of either kind of pilot (assumption log 33). -/
def EngineJob.operation : EngineJob → PartOperation
  | .clear _ => .clear
  | .process _ .capture => .capture
  | .process _ (.pilot _ _ _) => .pilotRead
  | .process _ (.accumulateRead _ _ _ _ _) => .accumulate
  | .process _ (.accumulateWrite _ _ _ _ _) => .accumulate

/-- The work for the sweep in hand is skipped: the rest of a CLEAR, or the sweep's part of a PROCESS (R26, R27; assumption log 18). -/
def State.skipWork (s : State) (work : EngineWork) : State := match work.job with
  | .clear _ => { s with engine := { s.engine with work := none } }
  | .process t _ => s.serveRest t work.entry

/-- The channels of the active set after one. -/
def Sweep.channelsAfter (w : Sweep) (c : Nat) : List Nat := w.active.filter (fun x => c < x)

/-- The read of a piece has been answered OK: the terms are added and written back, unless a mute has removed the channel (R30,
R32). -/
def State.writeBack (s : State) (t e : Nat) (w : Sweep) (first : Nat) (pilot : List PilotSample) (channel lag n : Nat)
    (words : List Word) : Bool × State :=
  if w.active.contains channel then
    let values := addTerms (t - w.start) first pilot ((s.stagedScan t).sample channel) lag (wordsAccumulators words)
    (true, s.issueEngine ⟨e, w.tag, false, .process t (.accumulateWrite first pilot channel lag n)⟩
      (.write (s.accumulatorAddress e channel lag) (accumulatorsWords values)))
  else s.serveChannels t e w first pilot (w.channelsAfter channel)

/-- The write-back of a piece has been answered OK: the channel's next piece, or the next channel (R32; assumption log 17). -/
def State.nextPiece (s : State) (t e : Nat) (w : Sweep) (first : Nat) (pilot : List PilotSample) (channel lag n : Nat) : Bool × State :=
  if lag + n ≤ w.highLag (t - w.start) && w.active.contains channel then
    (true, s.issueAccumulate t e w first pilot channel (lag + n))
  else s.serveChannels t e w first pilot (w.channelsAfter channel)

/-- A pilot read has been answered OK: the next read, or the first channel (R33). DESIGN CHOICE: the remaining reads are made also when a
mute taken since the first has left no active channel that is not holed (R30, R68; assumption log 34). -/
def State.pilotRead (s : State) (t e : Nat) (w : Sweep) (first next : Nat) (got : List PilotSample) : Bool × State :=
  if next ≤ w.lastPilotWord (t - w.start) then (true, s.issuePilot t e w first next got)
  else s.serveChannels t e w first got w.active

/-- A PROCESS transfer of the sweep in hand has been answered OK. -/
def State.processAnswered (s : State) (t e : Nat) (w : Sweep) (words : List Word) : ProcessPhase → Bool × State
  | .capture => s.servePilot t e w
  | .pilot first next got => s.pilotRead t e w first next (got ++ words.flatMap wordSamples)
  | .accumulateRead first pilot channel lag n => s.writeBack t e w first pilot channel lag n words
  | .accumulateWrite first pilot channel lag n => s.nextPiece t e w first pilot channel lag n

/-- An engine transfer that was not abandoned has been answered: FAULT ends the sweep (R44); the answer for a sweep that has left is
discarded, but for the report of a FAULT (R45); OK advances the item (R26, R32). -/
def State.engineAnswered (s : State) (ok : Bool) (words : List Word) : State :=
  match s.engine.work with
  | none => s
  | some work =>
    if ok = false then
      let s1 := if work.left then s else s.leaveCorrelation work.entry .faultAborted
      (s1.partFault work.job.operation work.tag).skipWork work
    else if work.left then s.skipWork work
    else match work.job, s.sweep? work.entry with
      | .clear cursor, _ => s.continueClear work.entry cursor
      | .process t phase, some w => State.serveOn t work.entry (s.processAnswered t work.entry w words phase)
      | .process _ _, none => s.skipWork work

/-! ### Taking an item (R25) -/

/-- The engine has finished its item and a CLEAR stands at the head of its list. -/
def State.clearSweepDue (s : State) : Bool := s.engine.work.isNone && match s.engine.list with
  | .clear _ :: _ => true
  | _ => false

/-- The engine takes the CLEAR at the head of its list (R26). -/
def State.takeClear (s : State) : State := match s.engine.list with
  | .clear e :: rest => State.continueClear { s with engine := { s.engine with list := rest } } e 0
  | _ => s

/-- The engine has finished its item and a PROCESS stands at the head of its list. -/
def State.processScanDue (s : State) : Bool := s.engine.work.isNone && match s.engine.list with
  | .process _ :: _ => true
  | _ => false

/-- The engine takes the PROCESS at the head of its list (R27). -/
def State.takeProcess (s : State) : State := match s.engine.list with
  | .process t :: rest =>
    State.serveFrom t (List.range Config.sweepCount) { s with engine := { s.engine with list := rest } }
  | _ => s

end Sys2Proof.Machine
end

