-- ==== Sys2Proof/Machine/Assembler.lean ====
section
/-! DEFINITION. The Scan Assembler (spec/01): headers, samples, forced close, release, strays. The Window Decoder calls
`State.takeRawWrite` for a write that it has accepted (Sys2Proof/Machine/Path.lean). -/

namespace Sys2Proof.Machine

/-- A write into the RAW window as the Assembler sees it (R1): its slot, the index in the slot of its first word, and the rest. -/
structure RawWrite where
  requester : Requester
  address : Nat
  slot : Nat
  index : Nat
  data : List Word
  deriving DecidableEq, Repr

/-- R1: slot index and word index from the address, for a window with this base. -/
def rawWriteAt (g : Geometry) (base : Nat) (requester : Requester) (address : Nat) (data : List Word) : RawWrite where
  requester := requester
  address := address
  slot := (address - base) / g.stride
  index := (address - base) % g.stride / 4
  data := data

/-- What the checks of a header make of a write (R5, R6), before room in staging is looked at. -/
inductive HeaderVerdict where
  /-- The write touches no header word. -/
  | noHeader
  | bad (reason : HeaderReason)
  | rewind (scan : Nat)
  | pass (scan : Nat)
  deriving DecidableEq, Repr

/-- The checks of form and rewind, in this order (R5, R6). -/
def Assembler.headerVerdict (a : Assembler) (w : RawWrite) : HeaderVerdict :=
  if 2 ≤ w.index then .noHeader
  else if w.index = 1 then .bad .partialHeader
  else match w.data with
    | low :: high :: _ =>
      if high.toNat / 2 ^ 16 ≠ 0 then .bad .range
      else
        let n := low.toNat + 2 ^ 32 * high.toNat
        match a.newest with
        | none => .pass n
        | some m => if n ≤ m then .rewind n else .pass n
    | _ => .bad .partialHeader

/-- The sample words of a write with their channels, in address order (R1): word index 2 to C+1. -/
def RawWrite.samples (w : RawWrite) (c : Nat) : List (Nat × RawSample) :=
  w.data.zipIdx.filterMap (fun p =>
    let i := w.index + p.2
    if 2 ≤ i ∧ i < c + 2 then some (i - 2, p.1.setWidth 24) else none)

/-- A value for a channel joins the received samples, replacing an earlier one (R10). -/
def insertSample (c : Nat) (v : RawSample) : List (Nat × RawSample) → List (Nat × RawSample)
  | [] => [(c, v)]
  | (d, u) :: rest =>
    if c < d then (c, v) :: (d, u) :: rest else if c = d then (c, v) :: rest else (d, u) :: insertSample c v rest

/-- The FILLING entry of a slot takes a sample, and becomes COMPLETE with its last channel (R10). -/
def StagingEntry.take (c : Nat) (x : Nat × RawSample) (e : StagingEntry) : StagingEntry :=
  let samples := insertSample x.1 x.2 e.samples
  { e with samples := samples, state := if samples.length = c then .complete else .filling }

/-- Whether an entry is the FILLING entry of a slot. -/
def StagingEntry.fillingIn (slot : Nat) (e : StagingEntry) : Bool := e.state == .filling && e.slot == slot

/-- One sample word: into the FILLING entry of its slot, or a stray when there is none (R10, R11). The Bool says stray. -/
def takeSample (c slot : Nat) (staging : List StagingEntry) (x : Nat × RawSample) : List StagingEntry × Bool :=
  if staging.any (·.fillingIn slot) then
    (staging.map (fun e => if e.fillingIn slot then e.take c x else e), false)
  else (staging, true)

/-- The sample words of a write in address order, each against the state left by the one before it (R10). -/
def takeSamples (c slot : Nat) : List StagingEntry → List (Nat × RawSample) → List StagingEntry × Bool
  | staging, [] => (staging, false)
  | staging, x :: xs =>
    let first := takeSample c slot staging x
    let rest := takeSamples c slot first.1 xs
    (rest.1, first.2 || rest.2)

/-- A stray write sets the mark or raises its count (R11). -/
def Assembler.strayWrite (a : Assembler) (w : RawWrite) : Assembler :=
  { a with stray := some (match a.stray with
      | none => ⟨w.address, w.requester, 1⟩
      | some m => { m with count := min (m.count + 1) Config.countCap }) }

/-- The channels of an entry that were never received (R13). -/
def StagingEntry.missing (c : Nat) (e : StagingEntry) : List Nat :=
  (List.range c).filter (fun x => !e.samples.any (fun p => p.1 == x))

/-- Forced close of the FILLING entry of a scan (R13): the missing channels are holed, COMPLETE, and SCAN_FORCED is submitted. -/
def State.forceClose (s : State) (e : StagingEntry) : State :=
  let holed := e.missing s.geometry.c
  let staging := s.assembler.staging.map (fun x =>
    if x.scan = e.scan then { x with state := .complete, holed := holed } else x)
  State.submit { s with assembler := { s.assembler with staging := staging } } .scanForced e.scan none holed.length

/-- The newest admitted scan number becomes `n`, with SCAN_GAP for the numbers passed over (R8, R9). -/
def State.noteScan (s : State) (w : RawWrite) (n : Nat) : State :=
  let s1 : State := { s with assembler := { s.assembler with newest := some n } }
  match s.assembler.newest with
  | none => s1
  | some m => if m + 1 < n then s1.submit .scanGap (m + 1) (some w.requester) (min (n - m - 1) (2 ^ 32 - 1)) else s1

/-- The FILLING entry of a slot, if there is one, is closed by force (R8). -/
def State.closeSlot (s : State) (slot : Nat) : State := match s.assembler.staging.find? (·.fillingIn slot) with
  | none => s
  | some e => s.forceClose e

/-- A FILLING entry without samples joins. The staging list stays in scan-number order, since `n` is greater than every number admitted
before it (R8). -/
def State.stageScan (s : State) (slot n : Nat) : State :=
  { s with assembler := { s.assembler with staging := s.assembler.staging ++ [⟨n, slot, .filling, [], [], false⟩] } }

/-- The FILLING entries of Scan Staging. -/
def Assembler.fillingEntries (a : Assembler) : List StagingEntry := a.staging.filter (fun e => e.state == .filling)

/-- With more than two FILLING entries the lowest-numbered is closed by force (R8). -/
def State.limitFilling (s : State) : State := match s.assembler.fillingEntries with
  | e :: rest => if Config.fillingCapacity ≤ rest.length then s.forceClose e else s
  | [] => s

/-- The admission of a header with scan number `n`, steps 1 to 4 of R8. -/
def State.openScan (s : State) (w : RawWrite) (n : Nat) : State :=
  (((s.noteScan w n).closeSlot w.slot).stageScan w.slot n).limitFilling

/-- The release rule (R14) on staging in scan-number order: every COMPLETE entry up to the first FILLING one is released; the scan
numbers released now come second. -/
def releaseComplete : List StagingEntry → List StagingEntry × List Nat
  | [] => ([], [])
  | e :: es =>
    if e.released then
      let r := releaseComplete es
      (e :: r.1, r.2)
    else match e.state with
      | .complete =>
        let r := releaseComplete es
        ({ e with released := true } :: r.1, e.scan :: r.2)
      | .filling => (e :: es, [])

/-- The STRAY_SAMPLE report of a release that finds the mark set (R15). -/
def State.reportStray (s : State) : State := match s.assembler.stray with
  | none => s
  | some m =>
    State.submit { s with assembler := { s.assembler with stray := none } } .straySample m.address (some m.requester) m.count

/-- The releases of one event (R14, R15): PROCESS items in increasing scan number, the Stall Timer reloaded, STALLED sweeps resumed,
then STRAY_SAMPLE and STREAM_RESUMED (R42). -/
def State.releaseScans (s : State) : State :=
  let r := releaseComplete s.assembler.staging
  match r.2 with
  | [] => s
  | scans =>
    let s1 := { s with
      assembler := { s.assembler with staging := r.1 }
      engine := { s.engine with list := s.engine.list ++ scans.map EngineItem.process } }
    let n := s1.stalledCount
    let s2 := s1.reloadStall.resumeStalled.reportStray
    if n = 0 then s2 else s2.submit .streamResumed 0 none n

/-- The sample words of an accepted write are taken (R10, R11; assumption log 30), and scans that have become releasable
are released (R14). -/
def State.takeWords (s : State) (w : RawWrite) : State :=
  let c := s.geometry.c
  let r := takeSamples c w.slot s.assembler.staging (w.samples c)
  let a := { s.assembler with staging := r.1 }
  State.releaseScans { s with assembler := if r.2 then a.strayWrite w else a }

/-- The sample words of a write whose header was refused are strays (R12; assumption log 14). -/
def State.strayWords (s : State) (w : RawWrite) : State :=
  if (w.samples s.geometry.c).isEmpty then s else { s with assembler := s.assembler.strayWrite w }

/-- A write that the Scan Assembler takes (R2): its header first, then its sample words. -/
def State.takeRawWrite (s : State) (w : RawWrite) : State :=
  match s.assembler.headerVerdict w with
  | .noHeader => s.takeWords w
  | .bad reason => (s.submit .badHeader w.address (some w.requester) reason.code).strayWords w
  | .rewind n => (s.submit .scanRewind n (some w.requester) w.slot).strayWords w
  | .pass n => (s.openScan w n).takeWords w

/-- Whether a write would be admitted as a header, so that it needs a free staging entry (R7). -/
def HeaderVerdict.needsEntry : HeaderVerdict → Bool
  | .noHeader => false
  | .bad _ => false
  | .rewind _ => false
  | .pass _ => true

/-- Whether a staging entry is free (R3). -/
def Assembler.hasFreeEntry (a : Assembler) : Bool := a.staging.length < Config.stagingCapacity

/-- A PROCESS in progress is abandoned with its outstanding transfer (R25). -/
def State.abandonProcess (s : State) : State := match s.engine.work with
  | some ⟨_, _, _, .process _ _⟩ => { s with engine := { s.engine with work := none }, port := s.port.abandon .engine }
  | some ⟨_, _, _, .clear _⟩ => s
  | none => s

/-- Scan Staging is emptied, the newest admitted scan number becomes none, the stray mark is cleared, without a report, and the
PROCESS items leave the engine work list (R17, R18, R25). -/
def State.clearAssembler (s : State) : State :=
  State.abandonProcess { s with
    assembler := ⟨[], none, none⟩
    engine := { s.engine with list := s.engine.list.filter (fun i => match i with
      | .clear _ => true
      | .process _ => false) } }

end Sys2Proof.Machine
end

