-- ==== Sys2Proof/Machine/Modes.lean ====
section
/-! DEFINITION. Mode Control (spec/10): entry into IDLE, the end of a drain, and SET_MODE. -/

namespace Sys2Proof.Machine

/-- The mode and the requested mode take new values, with one MODE_CHANGED report (R165, R171). -/
def State.changeMode (s : State) (mode requested : Mode) (cause : ModeCause) : State :=
  State.submit { s with mode := mode, requestedMode := requested } .modeChanged s.mode.code none (modeChangedDetail mode cause)

/-- Entry into IDLE: staging, the newest scan number and the stray mark are cleared, PROCESS work goes, the Stall Timer stops, and
the report is made after that (R170, R171). -/
def State.enterIdle (s : State) (cause : ModeCause) : State :=
  let s1 := s.clearAssembler
  State.changeMode { s1 with sweeps := { s1.sweeps with stallTimer := none } } .idle .idle cause

/-- Whether the Sweep Table holds no live sweep. -/
def State.noSweep (s : State) : Bool := s.liveSweeps.isEmpty

/-- The last live sweep has been freed by a fold: in DRAINING the part enters IDLE (R170). -/
def State.drainEnd (s : State) : State := if s.mode = .draining ∧ s.noSweep then s.enterIdle .drainEnd else s

/-- The preconditions of R167. -/
def State.acquireReady (s : State) : Bool :=
  s.geometry.isSet && s.windows.raw.isSome && s.windows.stack.isSome && s.windows.scratch.isSome

/-- The abort flag's effect (R168 step 1). -/
def State.applyAbort (s : State) (flag : Nat) : State := if flag = 1 then s.modeAbort else s

/-- Steps 2 and 3 of R168. -/
def State.leaveAcquire (s : State) : State :=
  if s.noSweep then s.enterIdle .setMode else s.changeMode .draining .idle .setMode

/-- SET_MODE with operands in range (R166). -/
def State.setMode (s : State) (target : Mode) (flag : Nat) : State := match s.mode, target with
  | .idle, .acquire =>
    if s.acquireReady then (s.changeMode .acquire .acquire .setMode).endCommand .ok else s.endCommand .notReady
  | .idle, _ => s.endCommand .ok
  | .acquire, .acquire => s.endCommand .ok
  | .acquire, _ => (s.applyAbort flag).leaveAcquire.endCommand .ok
  | .draining, .acquire => (s.changeMode .acquire .acquire .setMode).endCommand .ok
  | .draining, _ => (s.applyAbort flag).endCommand .ok

/-- The rule of SET_MODE (R166): targets IDLE 1 and ACQUIRE 2, abort flag 0 or 1. -/
def State.setModeRule (q : QueueEntry) (s : State) : State :=
  if 1 < q.whole 2 then s.endCommand .badOperand
  else match q.whole 1 with
    | 1 => s.setMode .idle (q.whole 2)
    | 2 => s.setMode .acquire (q.whole 2)
    | _ => s.endCommand .badOperand

/-- SET_MODE begins. -/
def execSetMode (s : State) : Host.Outcome State Fault Refusal := s.command .setMode State.setModeRule

end Sys2Proof.Machine
end

