-- ==== Sys2Proof/Machine/Stacks.lean ====
section
/-! DEFINITION. The Stack Directory and the Stack Unit (spec/05): OPEN_SOURCE_POINT, CLOSE_SOURCE_POINT and RELEASE_STACK, and the
CLEAR, FOLD and SEAL items, transfer by transfer. The answers reach it through Sys2Proof/Machine/Answers.lean. -/

namespace Sys2Proof.Machine

/-! ### OPEN_SOURCE_POINT and SLOT_CLAIM (R80, R81) -/

/-- Check 1 of R80. -/
def OpenOperands.inRange (o : OpenOperands) (g : Geometry) : Bool :=
  o.sourcePoint != 0 && 1 ≤ o.foldTarget && o.foldTarget ≤ Config.directoryCount && 1 ≤ o.lags && o.lags ≤ g.kMax &&
    o.first < g.c && o.last < g.c && o.gapFirst < g.c && o.gapLast < g.c

/-- The lowest FREE entry among the first N, none while the window is off (R80). -/
def State.freeSlot (s : State) : Option Nat := match s.windows.stack with
  | none => none
  | some w => (s.directory.take w.slots).findIdx? (fun d => d.state == .free)

/-- The claimed entry (R81). -/
def OpenOperands.entry (o : OpenOperands) (c : Nat) : DirEntry where
  state := .opened
  sourcePoint := o.sourcePoint
  foldTarget := o.foldTarget
  lags := o.lags
  first := o.first
  last := o.last
  gapFirst := o.gapFirst
  gapLast := o.gapLast
  editLimit := o.editLimit
  notices := 0
  damaged := false
  headerFault := false
  contributors := []
  foldCounts := List.replicate c 0

/-- The claim of a slot (R81). -/
def State.claimSlot (s : State) (o : OpenOperands) (i : Nat) : State :=
  ((s.setSlot i (o.entry s.geometry.c)).appendStackItem (.clear i)).endCommand .ok

/-- The rule of OPEN_SOURCE_POINT (R80, R81): the claim is immediate when the buffer holds no write to the slot. -/
def State.openRule (q : QueueEntry) (s : State) : State :=
  let o := q.openOperands
  if o.inRange s.geometry = false then s.endCommand .badOperand
  else if (s.findSourcePoint o.sourcePoint).isSome then s.endCommand .duplicate
  else match s.freeSlot with
    | none => s.endCommand .noRoom
    | some i => if s.bufferClear (s.slotRange i) then s.claimSlot o i else s.setProgress (.openSourcePoint i)

/-- OPEN_SOURCE_POINT begins. -/
def execOpenSourcePoint (s : State) : Host.Outcome State Fault Refusal := s.command .openSourcePoint State.openRule

/-- A waiting OPEN_SOURCE_POINT may claim its slot: the buffer holds no write to it (R81). -/
def State.slotClaimDue (s : State) : Bool := match s.commands.progress with
  | some (.openSourcePoint i) => s.bufferClear (s.slotRange i)
  | _ => false

/-- The claim of a waiting OPEN_SOURCE_POINT (R81). -/
def State.makeSlotClaim (s : State) : State := match s.commands.progress, s.commands.queue with
  | some (.openSourcePoint i), q :: _ => s.claimSlot q.openOperands i
  | _, _ => s

/-- SLOT_CLAIM. -/
def execSlotClaim (s : State) : Host.Outcome State Fault Refusal := State.event State.slotClaimDue State.makeSlotClaim s

/-! ### CLOSE_SOURCE_POINT and RELEASE_STACK (R91, R92, R98) -/

/-- The completion test (R91). -/
def State.completeTest (s : State) (i : Nat) : State :=
  let d := s.slotEntry i
  if d.state = .opened ∧ d.contributions = d.foldTarget then
    (s.setSlot i { d with state := .complete }).appendStackItem (.seal i)
  else s

/-- The rule of CLOSE_SOURCE_POINT (R92). -/
def State.closeRule (q : QueueEntry) (s : State) : State :=
  match s.findSourcePoint (q.whole 1) with
  | none => s.endCommand .unknown
  | some i =>
    let d := s.slotEntry i
    if d.state = .opened then ((s.setSlot i { d with foldTarget := d.notices }).completeTest i).endCommand .ok
    else s.endCommand .badState

/-- CLOSE_SOURCE_POINT begins. -/
def execCloseSourcePoint (s : State) : Host.Outcome State Fault Refusal := s.command .closeSourcePoint State.closeRule

/-- The rule of RELEASE_STACK (R98, R112). -/
def State.releaseRule (q : QueueEntry) (s : State) : State :=
  match s.findSourcePoint (q.whole 1) with
  | none => s.endCommand .unknown
  | some i =>
    if (s.slotEntry i).state = .sealed then ((s.setSlot i DirEntry.free).discardSlot i .released).endCommand .ok
    else s.endCommand .badState

/-- RELEASE_STACK begins. -/
def execReleaseStack (s : State) : Host.Outcome State Fault Refusal := s.command .releaseStack State.releaseRule

/-! ### Work of the Stack Unit -/

/-- The Stack Unit issues a transfer for its item (R82). -/
def State.issueStack (s : State) (w : StackWork) (t : Transfer) : State :=
  State.present { s with stackUnit := { s.stackUnit with work := some w } } .stackUnit t

/-- The item in progress ends. -/
def State.stackItemEnds (s : State) : State := { s with stackUnit := { s.stackUnit with work := none } }

/-- The address of a slot's sums (R75). -/
def State.sumsBase (s : State) (i : Nat) : Nat := (s.slotRange i).base + s.geometry.sumsOffset

/-- A transfer of a CLEAR or FOLD has met FAULT: DAMAGED, and one PART_FAULT at the item's first FAULT (R90). -/
def State.stackDamage (s : State) (slot : Nat) (faulted : Bool) (op : PartOperation) : State :=
  let d := s.slotEntry slot
  let s1 := if d.damaged then s else s.setSlot slot { d with damaged := true }
  if faulted then s1 else s1.partFault op d.sourcePoint

/-! ### CLEAR (R83) -/

/-- The CLEAR goes on at a word of the sums, or ends. -/
def State.continueSlotClear (s : State) (i cursor : Nat) (faulted : Bool) : State :=
  match nextTablePiece s.geometry.c s.geometry.kMax (s.slotEntry i).lags cursor with
  | none => s.stackItemEnds
  | some (start, n) => s.issueStack ⟨.clear i (start + n), faulted⟩ (.write (s.sumsBase i + 4 * start) (List.replicate n 0))

/-- A write of a CLEAR has been answered (R83, R90). -/
def State.slotClearAnswered (s : State) (ok faulted : Bool) (i cursor : Nat) : State :=
  if ok then s.continueSlotClear i cursor faulted
  else (s.stackDamage i faulted .slotClear).continueSlotClear i cursor true

/-- The Stack Unit has ended its item and a CLEAR stands at the head of its list. -/
def State.clearSlotDue (s : State) : Bool := s.stackUnit.work.isNone && match s.stackUnit.list with
  | .clear _ :: _ => true
  | _ => false

/-- The Stack Unit takes a CLEAR (R83). -/
def State.takeClearSlot (s : State) : State := match s.stackUnit.list with
  | .clear i :: rest => State.continueSlotClear { s with stackUnit := { s.stackUnit with list := rest } } i 0 false
  | _ => s

/-! ### FOLD (R84 to R90) -/

/-- Fold counts raised by one for the stacked channels (R87 step 3). -/
def raiseCounts (stacked : List Nat) (counts : List Nat) : List Nat :=
  counts.zipIdx.map (fun p => if stacked.contains p.2 then p.1 + 1 else p.1)

/-- The contributor entry of a fold (R87 step 1). -/
def FoldWork.contributor (f : FoldWork) (tag : Nat) (outcome : SweepOutcome) : Contributor :=
  ⟨tag, outcome, f.stacked.length, f.rejected, f.holed, f.muted⟩

/-- The end of a fold, in the order of R87; then the end of a drain (R170; assumption log 26). -/
def State.foldEnd (s : State) (f : FoldWork) (w : Sweep) (outcome : SweepOutcome) : State :=
  let d := s.slotEntry f.slot
  let s1 := s.setSlot f.slot
    { d with contributors := d.contributors ++ [f.contributor w.tag outcome], foldCounts := raiseCounts f.stacked d.foldCounts }
  let s2 := s1.submit .sweepEnded w.tag none outcome.code
  (((s2.setSweep f.entry none).completeTest f.slot).stackItemEnds).drainEnd

/-- The read of the next piece of a channel's accumulators (R85). -/
def State.issueFoldRead (s : State) (f : FoldWork) (faulted : Bool) (lag lags : Nat) : State :=
  let n := accumulatorPiece s.geometry f.channel lag (lags - 1)
  s.issueStack ⟨.fold { f with phase := .scratchRead lag n }, faulted⟩ (.read (s.accumulatorAddress f.entry f.channel lag) (2 * n))

/-- The address of a sum (R75). -/
def State.sumAddress (s : State) (slot channel lag : Nat) : Nat := s.sumsBase slot + 8 * (channel * s.geometry.kMax + lag)

/-- The read of the next piece of a channel's sums (R86). -/
def State.issueSumsRead (s : State) (f : FoldWork) (faulted : Bool) (lag lags : Nat) : State :=
  let n := accumulatorPiece s.geometry f.channel lag (lags - 1)
  s.issueStack ⟨.fold { f with phase := .sumsRead lag n }, faulted⟩ (.read (s.sumAddress f.slot f.channel lag) (2 * n))

/-- The fold decides the channels given, in increasing number, up to the first that it reads; after the last it ends (R85). -/
def State.foldFrom (w : Sweep) (faulted : Bool) : List Nat → FoldWork → State → State
  | [], f, s => s.foldEnd f w .stacked
  | c :: rest, f, s =>
    if !w.active.contains c then State.foldFrom w faulted rest { f with muted := f.muted + 1 } s
    else if w.holedSet.contains c then State.foldFrom w faulted rest { f with holed := f.holed + 1 } s
    else s.issueFoldRead { f with channel := c, rest := rest, values := [] } faulted 0 w.lags

/-- The fold goes on with the channels after the one in hand. -/
def State.foldRest (s : State) (f : FoldWork) (w : Sweep) (faulted : Bool) : State := State.foldFrom w faulted f.rest f s

/-- All of a channel's accumulators have been read: the verdict, and the channel counted and stacked by it (R65, R85). -/
def State.foldVerdict (s : State) (f : FoldWork) (w : Sweep) (faulted : Bool) : State :=
  let limit := (s.slotEntry f.slot).editLimit
  let s1 := s.applyVerdict f.channel limit (verdict limit f.values)
  match verdict limit f.values with
  | .rejected => s1.foldRest { f with rejected := f.rejected + 1 } w faulted
  | .accepted => s1.issueSumsRead { f with stacked := f.stacked ++ [f.channel] } faulted 0 w.lags

/-- Two runs of values added, exactly (R86; assumption log 28). -/
def addSums (sums values : List Accumulator) : List Accumulator :=
  List.zipWith (fun a b => BitVec.ofInt 64 (a.toInt + b.toInt)) sums values

/-- A transfer of a stacking fold has been answered OK (R85, R86). -/
def State.foldAnsweredOk (s : State) (f : FoldWork) (w : Sweep) (faulted : Bool) (words : List Word) : State := match f.phase with
  | .scratchRead lag n =>
    let f1 := { f with values := f.values ++ wordsAccumulators words }
    if lag + n < w.lags then s.issueFoldRead f1 faulted (lag + n) w.lags else s.foldVerdict f1 w faulted
  | .sumsRead lag n =>
    s.issueStack ⟨.fold { f with phase := .sumsWrite lag n }, faulted⟩
      (.write (s.sumAddress f.slot f.channel lag) (accumulatorsWords (addSums (wordsAccumulators words) (f.values.drop lag))))
  | .sumsWrite lag n => if lag + n < w.lags then s.issueSumsRead f faulted (lag + n) w.lags else s.foldRest f w faulted

/-- A transfer of a stacking fold has been answered FAULT (R90): a channel whose read failed is counted holed; one whose sums failed
stays counted stacked. -/
def State.foldAnsweredFault (s : State) (f : FoldWork) (w : Sweep) (faulted : Bool) : State := match f.phase with
  | .scratchRead _ _ => (s.stackDamage f.slot faulted .foldScratch).foldRest { f with holed := f.holed + 1 } w true
  | .sumsRead _ _ => (s.stackDamage f.slot faulted .foldSums).foldRest f w true
  | .sumsWrite _ _ => (s.stackDamage f.slot faulted .foldSums).foldRest f w true

/-- A fold at its beginning. -/
def FoldWork.start (entry slot : Nat) : FoldWork := ⟨entry, slot, 0, [], [], .scratchRead 0 0, [], 0, 0, 0⟩

/-- The Stack Unit has ended its item and a FOLD stands at the head of its list. -/
def State.foldDue (s : State) : Bool := s.stackUnit.work.isNone && match s.stackUnit.list with
  | .fold _ :: _ => true
  | _ => false

/-- The Stack Unit begins the fold of a sweep (R84); a sweep of another outcome than STACKED is folded record-only. -/
def State.beginFold (s : State) (e : Nat) (w : Sweep) : State :=
  let w1 := { w with state := .folding }
  let s1 := s.setSweep e (some w1)
  match w.outcome with
  | some .stacked => State.foldFrom w1 false (w.startingSet.getD []) (FoldWork.start e w.slot) s1
  | some o => s1.foldEnd (FoldWork.start e w.slot) w1 o
  | none => s1

/-- The Stack Unit takes a FOLD (R84). -/
def State.takeFold (s : State) : State := match s.stackUnit.list with
  | .fold e :: rest =>
    let s1 : State := { s with stackUnit := { s.stackUnit with list := rest } }
    match s1.sweep? e with
    | some w => s1.beginFold e w
    | none => s1
  | _ => s

/-! ### SEAL (R94, R95) -/

/-- The number of writes of the fold-count table: one for each 64-byte block of it. -/
def foldCountWrites (c : Nat) : Nat := (c + 15) / 16

/-- Write `j` of a seal, by its offset in the slot and its words: the fold counts, header blocks 1 to 15, header block 0 (R94). -/
def DirEntry.sealWrite (d : DirEntry) (c j : Nat) : Nat × List Word :=
  if j < foldCountWrites c then (1024 + 64 * j, ((d.foldCounts.take c).drop (16 * j)).take 16 |>.map word)
  else
    let block := (j - foldCountWrites c + 1) % 16
    (64 * block, (d.headerWords.drop (16 * block)).take 16)

/-- The seal issues write `j`, or ends after the last one (R95): SEALED, STACK_SEALED, then the Deferred Read Queue is told. -/
def State.continueSeal (s : State) (i j : Nat) (faulted : Bool) : State :=
  let d := s.slotEntry i
  if j < foldCountWrites s.geometry.c + 16 then
    let w := d.sealWrite s.geometry.c j
    s.issueStack ⟨.seal i (j + 1), faulted⟩ (.write ((s.slotRange i).base + w.1) w.2)
  else
    let d1 := { d with state := .sealed }
    (((s.setSlot i d1).submit .stackSealed d1.sourcePoint none d1.sealedDetail).fetchAtSeal i).stackItemEnds

/-- A write of a seal has been answered (R94; assumption log 19). -/
def State.sealAnswered (s : State) (ok faulted : Bool) (i next : Nat) : State :=
  if ok then s.continueSeal i next faulted
  else
    let d := s.slotEntry i
    let s1 := if d.headerFault then s else s.setSlot i { d with headerFault := true }
    State.continueSeal (if faulted then s1 else s1.partFault .sealWrite d.sourcePoint) i next true

/-- The Stack Unit has ended its item and a SEAL stands at the head of its list. -/
def State.sealDue (s : State) : Bool := s.stackUnit.work.isNone && match s.stackUnit.list with
  | .seal _ :: _ => true
  | _ => false

/-- The Stack Unit takes a SEAL (R94). -/
def State.takeSeal (s : State) : State := match s.stackUnit.list with
  | .seal i :: rest =>
    let s1 : State := { s with stackUnit := { s.stackUnit with list := rest } }
    (s1.setSlot i { s1.slotEntry i with state := .sealing }).continueSeal i 0 false
  | _ => s

/-! ### Answers (R83, R85, R90, R94) -/

/-- A Stack Unit transfer that was not abandoned has been answered. -/
def State.stackAnswered (s : State) (ok : Bool) (words : List Word) : State :=
  match s.stackUnit.work with
  | none => s
  | some ⟨.clear i cursor, faulted⟩ => s.slotClearAnswered ok faulted i cursor
  | some ⟨.seal i next, faulted⟩ => s.sealAnswered ok faulted i next
  | some ⟨.fold f, faulted⟩ => match s.sweep? f.entry with
    | none => s.stackItemEnds
    | some w => if ok then s.foldAnsweredOk f w faulted words else s.foldAnsweredFault f w faulted

end Sys2Proof.Machine
end

