-- ==== Sys2Proof/Machine/Commands.lean ====
section
/-! DEFINITION. The Command Unit (spec/09): posting, the writes into a slot, and the commands that belong to no other block:
SET_GEOMETRY, SET_WINDOW with its change, SET_TIMERS, READ_STATE, ENGINE_RESET with its later events, and SET_ARBITER (R143). -/

namespace Sys2Proof.Machine

/-! ### Posting (R148, R149) -/

/-- The words of a write that lie in slot `j`, each with its word number (R124). -/
def slotWords (controlBase address : Nat) (data : List Word) (j : Nat) : List (Nat × Word) :=
  data.zipIdx.filterMap (fun p =>
    let a := address + 4 * p.2
    let slot := controlBase + 32 * j
    if slot ≤ a ∧ a < slot + 32 then some ((a - slot) / 4, p.1) else none)

/-- The words handed replace those of the same number in the copy (R148). -/
def CommandSlot.take (c : CommandSlot) (words : List (Nat × Word)) : CommandSlot :=
  { c with copy := words.foldl (fun copy p => copy.set p.1 p.2) c.copy }

/-- The queue entry formed from a slot's copy (R149, R181). -/
def CommandSlot.entry (c : CommandSlot) (j : Nat) : QueueEntry where
  slot := j
  kind := (c.copy.getD 0 0).extractLsb' 0 16
  tag := c.tag
  operands := (c.copy.drop 1).take 6

/-- The command of a slot is posted, and its BUSY write waits to be handed (R149, R150). -/
def State.post (s : State) (j : Nat) : State :=
  let c := s.commandSlot j
  { s with commands := { s.commands with
    slots := s.commands.slots.set j { c with busy := true, ending := none, faulted := false }
    queue := s.commands.queue ++ [c.entry j]
    busyWaits := s.commands.busyWaits ++ [j] } }

/-- One slot takes the words of an accepted write, and posts when word 0 is among them (R149). -/
def State.takeSlotWords (s : State) (address : Nat) (data : List Word) (j : Nat) : State :=
  let words := slotWords s.controlBase address data j
  let s1 := s.setCommandSlot j ((s.commandSlot j).take words)
  if words.any (fun p => p.1 == 0) then s1.post j else s1

/-- The Command Unit takes the words of an accepted write, the lower slot first (R124, R149). -/
def State.takeCommandWords (s : State) (address : Nat) (data : List Word) : State :=
  (List.range Config.slotCount).foldl (fun s j => s.takeSlotWords address data j) s

/-- The bytes of a command slot (R148). -/
def State.commandSlotRange (s : State) (j : Nat) : Range := ⟨s.controlBase + 32 * j, 32⟩

/-- The BUSY write at the front may be handed: the buffer holds no write to its slot (R150; assumption log 23). -/
def State.busyWriteDue (s : State) : Bool := match s.commands.busyWaits with
  | [] => false
  | j :: _ => s.bufferClear (s.commandSlotRange j)

/-- The BUSY write of a slot is handed, and after it the writes of a command that has ended (R150). -/
def State.handBusyWrite (s : State) : State := match s.commands.busyWaits with
  | [] => s
  | j :: rest =>
    let c := s.commandSlot j
    let ended := match c.ending with
      | none => []
      | some e => c.endWrites j e
    { s with
      commands := { s.commands with busyWaits := rest, slots := s.commands.slots.set j { c with ending := none } }
      reports := s.reports.hand (.slotWrite ⟨j, .busy, [statusWord .busy c.tag]⟩ :: ended) }

/-! ### BAD_KIND (R154) -/

/-- The head command may begin and its kind names none. -/
def State.badKindDue (s : State) : Bool :=
  s.commands.progress.isNone && s.commands.queue.head?.any (fun q => q.command.isNone)

/-- A command of no kind begins and ends (R154). -/
def execBadKindCommand (s : State) : Host.Outcome State Fault Refusal :=
  State.event State.badKindDue (fun s => s.endCommand .badKind) s

/-! ### SET_GEOMETRY (R155) -/

/-- Check 1 of R155. -/
def Geometry.inRange (g : Geometry) : Bool :=
  1 ≤ g.c && g.c ≤ Config.channelCount && 1 ≤ g.kMax && g.kMax ≤ 4096 && 64 ≤ g.lMax && g.lMax ≤ 32768

/-- Whether some window is on (R155). -/
def Windows.anyOn (w : Windows) : Bool := w.raw.isSome || w.stack.isSome || w.scratch.isSome || w.pilot.isSome

/-- The rule of SET_GEOMETRY (R155). -/
def State.geometryRule (q : QueueEntry) (s : State) : State :=
  let g : Geometry := ⟨q.whole 1, q.whole 2, q.whole 3⟩
  if g.inRange = false then s.endCommand .badOperand
  else if s.windows.anyOn then s.endCommand .badState
  else State.endCommand { s with geometry := g } .ok

/-- SET_GEOMETRY begins. -/
def execSetGeometry (s : State) : Host.Outcome State Fault Refusal := s.command .setGeometry State.geometryRule

/-! ### SET_WINDOW and WINDOW_CHANGE (R156, R157) -/

/-- The bytes of the new window, none when the setting turns it off (R156). -/
def WindowSetting.range (w : WindowSetting) (g : Geometry) : Option Range := match w with
  | .raw x => x.map (·.range g)
  | .stack x => x.map (·.range g)
  | .scratch x => x.map (·.range g)
  | .pilot x => x.map (·.range)

/-- The bytes of the window as it stands. -/
def State.oldRange (s : State) : WindowSetting → Option Range
  | .raw _ => s.rawRange
  | .stack _ => s.stackRange
  | .scratch _ => s.scratchRange
  | .pilot _ => s.pilotRange

/-- The bytes of the other windows that are on. -/
def State.otherRanges (s : State) : WindowSetting → List Range
  | .raw _ => [s.stackRange, s.scratchRange, s.pilotRange].filterMap id
  | .stack _ => [s.rawRange, s.scratchRange, s.pilotRange].filterMap id
  | .scratch _ => [s.rawRange, s.stackRange, s.pilotRange].filterMap id
  | .pilot _ => [s.rawRange, s.stackRange, s.scratchRange].filterMap id

/-- Check 3 of R156 passes. -/
def State.windowStateOk (s : State) : WindowSetting → Bool
  | .raw _ => true
  | .stack _ => s.directory.all (fun d => d.state == .free)
  | .scratch _ => true
  | .pilot x => s.pilots.all (fun p => p.state == .empty || match x with
    | none => false
    | some w => p.extent.within w.range)

/-- Checks 2 to 5 of R156, none when the command is taken. -/
def State.windowStatus (s : State) (w : WindowSetting) : Option Status :=
  if s.geometry.isSet = false then some .notReady
  else if s.windowStateOk w = false then some .badState
  else match w.range s.geometry with
    | none => none
    | some r =>
      if Config.addressTop < r.limit - 1 then some .tooSmall
      else if (s.controlRange :: s.otherRanges w).any r.meets then some .overlap
      else none

/-- Both conditions of R157 hold. -/
def State.windowReady (s : State) (w : WindowSetting) : Bool :=
  (match s.oldRange w with
    | none => true
    | some r => s.port.partTransfers.all (fun t => !t.range.meets r)) &&
  match w.range s.geometry with
    | none => true
    | some r => s.bufferClear r

/-- The window takes its new settings (R157). -/
def Windows.apply (w : Windows) : WindowSetting → Windows
  | .raw x => { w with raw := x }
  | .stack x => { w with stack := x }
  | .scratch x => { w with scratch := x }
  | .pilot x => { w with pilot := x }

/-- The change of R157, with which the command completes. -/
def State.changeWindow (s : State) (w : WindowSetting) : State :=
  State.endCommand { s with windows := s.windows.apply w } .ok

/-- The rule of SET_WINDOW (R156, R157): the change is immediate when both conditions hold. -/
def State.windowRule (q : QueueEntry) (s : State) : State :=
  match q.windowSetting with
  | none => s.endCommand .badOperand
  | some w => match s.windowStatus w with
    | some status => s.endCommand status
    | none => if s.windowReady w then s.changeWindow w else s.setProgress (.setWindow w)

/-- SET_WINDOW begins. -/
def execSetWindow (s : State) : Host.Outcome State Fault Refusal := s.command .setWindow State.windowRule

/-- A waiting SET_WINDOW may change its window (R157). -/
def State.windowChangeDue (s : State) : Bool := match s.commands.progress with
  | some (.setWindow w) => s.windowReady w
  | _ => false

/-- The window of a waiting SET_WINDOW changes (R157). -/
def State.makeWindowChange (s : State) : State := match s.commands.progress with
  | some (.setWindow w) => s.changeWindow w
  | _ => s

/-- WINDOW_CHANGE. -/
def execWindowChange (s : State) : Host.Outcome State Fault Refusal := State.event State.windowChangeDue State.makeWindowChange s

/-! ### SET_TIMERS (R158) and SET_ARBITER (R143) -/

/-- The rule of SET_TIMERS (R158). -/
def State.timersRule (q : QueueEntry) (s : State) : State :=
  let stall := q.whole 1
  let discard := q.whole 2
  if stall = 0 ∨ 65535 < stall ∨ discard = 0 ∨ 65535 < discard then s.endCommand .badOperand
  else State.endCommand { s with
    sweeps := { s.sweeps with stallPeriod := stall }, drq := { s.drq with period := discard } } .ok

/-- SET_TIMERS begins. -/
def execSetTimers (s : State) : Host.Outcome State Fault Refusal := s.command .setTimers State.timersRule

/-- The rule of SET_ARBITER (R143). -/
def State.arbiterRule (q : QueueEntry) (s : State) : State :=
  let forward := q.whole 1
  let part := q.whole 2
  if forward = 0 ∨ 255 < forward ∨ part = 0 ∨ 255 < part then s.endCommand .badOperand
  else State.endCommand { s with port := { s.port with forwardSlice := forward, partSlice := part } } .ok

/-- SET_ARBITER begins. -/
def execSetArbiter (s : State) : Host.Outcome State Fault Refusal := s.command .setArbiter State.arbiterRule

/-! ### READ_STATE (R159) -/

/-- The directory entries that are not FREE (R77). -/
def State.slotsInUse (s : State) : Nat := (s.directory.filter (fun d => d.state != .free)).length

/-- The result words of READ_STATE (12.3). -/
def State.stateWords (s : State) : List Word :=
  word (s.mode.code + 2 ^ 8 * s.requestedMode.code) :: (scanWords s.assembler.newest ++
    [word s.liveSweeps.length, word (s.slotsInUse + 2 ^ 16 * s.drqInUse.length), word s.assembler.staging.length])

/-- The rule of READ_STATE (R159). -/
def State.readStateRule (_ : QueueEntry) (s : State) : State := s.endCommand .ok (some s.stateWords)

/-- READ_STATE begins. -/
def execReadState (s : State) : Host.Outcome State Fault Refusal := s.command .readState State.readStateRule

/-! ### ENGINE_RESET (R160 to R162) -/

/-- The Sweep Table, the Correlation Engine and the use counts are reset (R47, R62). -/
def State.resetSweeps (s : State) : State :=
  { s with
    sweeps := { s.sweeps with table := s.sweeps.table.map (fun _ => none), stallTimer := none }
    engine := ⟨[], none⟩
    pilots := s.pilots.map (fun p => { p with useCount := 0 })
    port := s.port.abandon .engine }

/-- The Stack Unit's list is emptied and its item abandoned (R99). -/
def State.resetStackUnit (s : State) : State := { s with stackUnit := ⟨[], none⟩, port := s.port.abandon .stackUnit }

/-- Whether ENGINE_RESET frees an entry (R99). -/
def SlotState.unsealed : SlotState → Bool
  | .free => false
  | .opened => true
  | .complete => true
  | .sealing => true
  | .sealed => false

/-- One unsealed slot is freed, with STACK_DISCARDED and then the discards of its deferred reads (R99, R113). -/
def State.discardStack (s : State) (i : Nat) : State :=
  let d := s.slotEntry i
  ((s.setSlot i DirEntry.free).submit .stackDiscarded d.sourcePoint none d.state.code).discardSlot i .reset

/-- The slots that ENGINE_RESET frees, in increasing order. -/
def State.unsealedSlots (s : State) : List Nat :=
  (List.range Config.directoryCount).filter (fun i => (s.slotEntry i).state.unsealed)

/-- The rule of ENGINE_RESET: its first event (R160). -/
def State.engineResetRule (_ : QueueEntry) (s : State) : State :=
  let slots := s.unsealedSlots
  (slots.foldl State.discardStack s.resetSweeps.resetStackUnit).setProgress (.engineReset slots.length false)

/-- ENGINE_RESET begins. -/
def execEngineReset (s : State) : Host.Outcome State Fault Refusal := s.command .engineReset State.engineResetRule

/-- The first event of an ENGINE_RESET has come, the second has not. -/
def State.resetScansDue (s : State) : Bool := match s.commands.progress with
  | some (.engineReset _ false) => true
  | _ => false

/-- The second event of ENGINE_RESET (R161, R18). -/
def State.resetScans (s : State) : State := match s.commands.progress with
  | some (.engineReset freed _) => s.clearAssembler.setProgress (.engineReset freed true)
  | _ => s

/-- The second event of an ENGINE_RESET has come. -/
def State.resetDoneDue (s : State) : Bool := match s.commands.progress with
  | some (.engineReset _ true) => true
  | _ => false

/-- The mode step of the third event (R162 step 1). -/
def State.resetMode (s : State) : State := if s.mode = .idle then s else s.enterIdle .engineReset

/-- The third event of ENGINE_RESET (R162). -/
def State.resetDone (s : State) : State := match s.commands.progress, s.commands.queue with
  | some (.engineReset freed _), q :: _ => (s.resetMode.submit .engineResetDone q.tag.toNat none freed).endCommand .ok
  | _, _ => s

end Sys2Proof.Machine
end

