-- ==== Sys2Proof/Machine/Reports.lean ====
section
/-! DEFINITION. The Report Unit (spec/11): the consumer index, SET_REPORTS, the answers to its client's writes, and ATTN. Submission
and the hand order are in Sys2Proof/Machine/Ops.lean. -/

namespace Sys2Proof.Machine

/-! ### The consumer index (R175) -/

/-- A consumer value is taken: a ring exists and the value lies from the old consumer index up to the producer index (R175). -/
def Reports.takesConsumer (r : Reports) (v : Nat) : Bool := v < r.size && (v + r.size - r.consumer) % r.size ≤ r.occupied

/-- The Report Unit takes the value of the consumer index word; a value that moves the index makes a flush (R175, R176). -/
def State.takeConsumer (s : State) (v : Nat) : State :=
  if s.reports.takesConsumer v && v != s.reports.consumer then
    { s with reports := Reports.flush { s.reports with consumer := v } s.assembler.newest }
  else s

/-! ### SET_REPORTS (R174) -/

/-- A ring size in range: 0, or a power of two from 16 to 1,024 (R174). -/
def ringSizeOk (n : Nat) : Bool := [0, 16, 32, 64, 128, 256, 512, 1024].contains n

/-- The answer of an outstanding record or producer write will be discarded (R174 step 1). -/
def ReportOut.discard (o : ReportOut) : ReportOut := match o.write with
  | .record _ _ => { o with discarded := true }
  | .producer _ => { o with discarded := true }
  | .mirror _ => o
  | .slotWrite _ => o

/-- The records with a ring place are withdrawn and marked pending (R174 step 1; assumption log 21). DESIGN CHOICE: R174 and R176 give no
order for the marks; the outstanding record is marked first, then the others in hand order (assumption log 36). -/
def Reports.withdraw (r : Reports) : Reports :=
  let lost := r.recordQueue.foldl Reports.loseRecord r
  { lost with
    handOrder := r.handOrder.filter (fun h => match h with
      | .record _ => false
      | .producerReset => true
      | .slotWrite _ => true)
    out := r.out.map ReportOut.discard
    producerDue := false }

/-- Steps 1 to 4 of R174. -/
def Reports.setRing (r : Reports) (size : Nat) (enable : Bool) (newest : Option Nat) : Reports :=
  let ready := Reports.hand { r.withdraw with size := size, enable := enable, producer := 0, consumer := 0 } [.producerReset]
  if size = 0 then ready else ready.flush newest

/-- The rule of SET_REPORTS (R174). -/
def State.reportsRule (q : QueueEntry) (s : State) : State :=
  if ringSizeOk (q.whole 1) = false ∨ 1 < q.whole 2 then s.endCommand .badOperand
  else State.endCommand { s with reports := s.reports.setRing (q.whole 1) (q.whole 2 == 1) s.assembler.newest } .ok

/-- SET_REPORTS begins. -/
def execSetReports (s : State) : Host.Outcome State Fault Refusal := s.command .setReports State.reportsRule

/-! ### Answers to the client's writes (R97, R152, R177, R178) -/

/-- A record write has been answered: the producer index advances and its write is due, or the record is lost to pending with a
PART_FAULT when it is neither one nor COALESCED (R177, R178). -/
def State.recordAnswered (s : State) (ok : Bool) (x : Record) (place : Nat) : State :=
  if ok then
    { s with reports := { s.reports with producer := (s.reports.producer + 1) % s.reports.size, producerDue := true } }
  else
    let s1 : State := { s with reports := s.reports.loseRecord x }
    if x.kind = .partFault ∨ x.coalesced then s1 else s1.partFault .reportWrite place

/-- A producer write has been answered (R178): a run of faults makes one report. -/
def State.producerAnswered (s : State) (ok reset : Bool) : State :=
  let s1 : State := { s with reports := { s.reports with producerOk := ok } }
  if !ok && (reset || s.reports.producerOk) then s1.partFault .producerWrite s.reports.producer else s1

/-- A mirror write has been answered (R97). -/
def State.mirrorAnswered (s : State) (ok : Bool) (slot : Nat) : State := if ok then s else s.partFault .mirrorWrite slot

/-- A slot is returned by the answer to its final status write (R152). -/
def State.returnSlot (s : State) (w : SlotWrite) : State := match w.role with
  | .busy => s
  | .results => s
  | .final => s.setCommandSlot w.slot { s.commandSlot w.slot with busy := false }

/-- A slot write has been answered: one PART_FAULT at the command's first FAULT (R152). -/
def State.slotWriteAnswered (s : State) (ok : Bool) (w : SlotWrite) : State :=
  let c := s.commandSlot w.slot
  let s1 :=
    if ok || c.faulted then s
    else State.partFault (s.setCommandSlot w.slot { c with faulted := true }) .commandWrite w.slot
  s1.returnSlot w

/-- The Report Unit's client has been answered; the answer of a discarded write has no effect (R174). -/
def State.reportAnswered (s : State) (ok : Bool) : State :=
  let s1 : State := { s with reports := { s.reports with out := none } }
  match s.reports.out with
  | none => s
  | some ⟨_, true⟩ => s1
  | some ⟨.record x place, false⟩ => s1.recordAnswered ok x place
  | some ⟨.producer reset, false⟩ => s1.producerAnswered ok reset
  | some ⟨.mirror slot, false⟩ => s1.mirrorAnswered ok slot
  | some ⟨.slotWrite w, false⟩ => s1.slotWriteAnswered ok w

/-! ### ATTN (R179) -/

/-- A flush has queued a COALESCED record that is not yet written (R176). -/
def Reports.flushQueued (r : Reports) : Bool := r.recordQueue.any (·.coalesced)

/-- The ATTN line (R179). DESIGN CHOICE: R179's condition names the indexes and the pending set, "deasserted otherwise", and its later
sentences keep ATTN asserted after a flush while the flushed kinds' records are written, until the host consumes them. With the indexes
equal the two differ; the line stays asserted while a flushed kind's record is queued (assumption log 37). -/
def Reports.attn (r : Reports) : Bool :=
  r.enable && (r.producer != r.consumer || !r.pendingKinds.isEmpty || r.flushQueued)

/-- The ATTN line of the part. -/
def State.attn (s : State) : Bool := s.reports.attn

end Sys2Proof.Machine
end

