-- ==== Sys2Proof/Machine/AtOnce.lean ====
section
/-! DEFINITION. The steps that the spec makes at once: a command begins when it comes to the head of the queue and none is in progress
(R153), a slot is claimed (R81) and a window changes (R157) at the first moment at which they may. They are made before any other step
of the part (assumption log 8). -/

namespace Sys2Proof.Machine

/-- The rule of a command, applied when it begins in a mode that allows it (R154). -/
def CommandKind.rule : CommandKind → QueueEntry → State → State
  | .setGeometry => State.geometryRule
  | .setWindow => State.windowRule
  | .setTimers => State.timersRule
  | .readState => State.readStateRule
  | .engineReset => State.engineResetRule
  | .noticeSweep => State.noticeRule
  | .cancelSweep => State.cancelRule
  | .readSweep => State.readSweepRule
  | .definePilot => State.defineRule
  | .removePilot => State.removeRule
  | .muteChannel => State.muteRule
  | .unmuteChannel => State.unmuteRule
  | .readChannel => State.readChannelRule
  | .openSourcePoint => State.openRule
  | .closeSourcePoint => State.closeRule
  | .releaseStack => State.releaseRule
  | .setArbiter => State.arbiterRule
  | .setMode => State.setModeRule
  | .setReports => State.reportsRule

/-- The command at the head of the queue begins (R153, R154). -/
def State.beginHead (s : State) : State := match s.commands.queue with
  | [] => s
  | q :: _ => match q.command with
    | none => s.endCommand .badKind
    | some k => State.beginCommand k k.rule s

/-- A step is due at once: the head of the queue is to begin, or the command in progress may claim its slot or change its window. -/
def State.overdue (s : State) : Bool :=
  !s.commands.queue.isEmpty && (s.commands.progress.isNone || s.slotClaimDue || s.windowChangeDue)

/-- The step that is due at once. -/
def State.atOnce (s : State) : State :=
  if s.commands.progress.isNone then s.beginHead else if s.slotClaimDue then s.makeSlotClaim else s.makeWindowChange

/-- The steps that are due at once are made, one event after another. -/
def State.catchUp : Nat → State → State
  | 0, s => s
  | n + 1, s => if s.overdue then State.catchUp n s.atOnce.settle else s

/-- The state in which a step that is not itself due at once takes place: the boundary work is done, and then whatever is due at once.
A command takes at most two such steps, its beginning and its claim or window change. -/
def State.caughtUp (s : State) : State := State.catchUp (2 * s.commands.queue.length) s.settle

/-- An event that is not itself due at once: what is due at once comes first (R81, R153, R157). One that is not due then does not take
place (assumption log 1, log 8). -/
def State.laterEvent (due : State → Bool) (effect : State → State) (s : State) : Host.Outcome State Fault Refusal :=
  if due s.caughtUp then .next (effect s.caughtUp).settle else .next s

end Sys2Proof.Machine
end

