-- ==== Sys2Proof/Machine/Path.lean ====
section
/-! DEFINITION. The upstream port with the Window Decoder, the Posted Write Buffer and the Read Path (spec/07). The answers of the
DRAM reach it through Sys2Proof/Machine/Answers.lean. -/

namespace Sys2Proof.Machine

/-! ### Form and region (R118, R119) -/

/-- Why a transaction is malformed, if it is (R118). -/
def malformed (address length : Nat) : Option MalformedReason :=
  if length = 0 ∨ 16 < length then some .length
  else if address % 4 ≠ 0 then some .alignment
  else if address / 64 ≠ (address + 4 * (length - 1)) / 64 then some .boundary
  else none

/-- The regions of R119. -/
inductive Region where
  | control
  | raw
  | stack
  | scratch
  | pilot
  | outside
  deriving DecidableEq, Repr

/-- The region of an address (R119). -/
def State.region (s : State) (a : Nat) : Region :=
  if s.controlRange.contains a then .control
  else if inRange s.rawRange a then .raw
  else if inRange s.stackRange a then .stack
  else if inRange s.scratchRange a then .scratch
  else if inRange s.pilotRange a then .pilot
  else .outside

/-! ### Refused writes (R121, R122) -/

/-- Whether a word of the Control Area, by its offset, refuses a write (R121; 12.2). -/
def State.controlRefuses (s : State) (offset : Nat) : Option ProtectedPart :=
  if offset < 0x100 then (if (s.commandSlot (offset / 32)).busy then some .commandSlot else none)
  else if offset = 0x100 ∨ (0x400 ≤ offset ∧ offset < 0x800) ∨ 0x8000 ≤ offset then some .partRegion
  else none

/-- The part of the first refused word of a Control Area write (R122). -/
def State.controlRefusal (s : State) (address length : Nat) : Option ProtectedPart :=
  (List.range length).findSome? (fun i => s.controlRefuses (address + 4 * i - s.controlBase))

/-- The state of the stack slot that an address lies in; FREE outside the window. -/
def State.slotStateAt (s : State) (a : Nat) : SlotState := match s.stackSlotAt a with
  | none => .free
  | some i => (s.slotEntry i).state

/-- The part that refuses a well-formed write, if one does (R121, R122). -/
def State.refusal (s : State) (address length : Nat) : Option ProtectedPart := match s.region address with
  | .control => s.controlRefusal address length
  | .raw => none
  | .stack => if s.slotStateAt address = .free then none else some .stackSlot
  | .scratch => some .scratch
  | .pilot =>
    if s.pilots.any (fun p => p.protects && p.extent.meets ⟨address, 4 * length⟩) then some .pilotExtent else none
  | .outside => none

/-! ### Accepted writes (R121, R123 to R125) -/

/-- The RAW window as it takes scans: on, and the mode is not IDLE (R2). -/
def State.liveRaw (s : State) (address : Nat) : Option RawWindow :=
  if s.region address = .raw ∧ s.mode ≠ .idle then s.windows.raw else none

/-- The write as the Scan Assembler sees it (R1). -/
def State.rawWrite (s : State) (w : RawWindow) (requester : Requester) (address : Nat) (data : List Word) : RawWrite :=
  rawWriteAt s.geometry w.base requester address data

/-- Whether an accepted write is forwarded (R2, R121). -/
def State.forwards (s : State) (address : Nat) : Bool := match s.liveRaw address with
  | none => true
  | some w => w.mode == .tap

/-- Whether the Scan Assembler would admit a header from the write (R7, R123). -/
def State.opensScan (s : State) (requester : Requester) (address : Nat) (data : List Word) : Bool := match s.liveRaw address with
  | none => false
  | some w => (s.assembler.headerVerdict (s.rawWrite w requester address data)).needsEntry

/-- Every resource that the write needs is free (R123). -/
def State.hasRoomFor (s : State) (requester : Requester) (address : Nat) (data : List Word) : Bool :=
  (!s.forwards address || s.pwb.length < Config.pwbCapacity) &&
    (!s.opensScan requester address data || s.assembler.hasFreeEntry)

/-- Step 1 of R123. -/
def State.forward (s : State) (requester : Requester) (address : Nat) (data : List Word) : State :=
  if s.forwards address then { s with pwb := s.pwb ++ [⟨requester, address, data⟩] } else s

/-- The value of the consumer index word in a write, when it is included (R125). -/
def State.consumerWord (s : State) (address : Nat) (data : List Word) : Option Word :=
  let a := s.controlBase + 0x140
  if address ≤ a ∧ a < address + 4 * data.length then data[(a - address) / 4]? else none

/-- The Report Unit takes the consumer word of a write that includes it (R125). -/
def State.takeConsumerWord (s : State) (address : Nat) (data : List Word) : State := match s.consumerWord address data with
  | none => s
  | some v => s.takeConsumer v.toNat

/-- Step 2 of R123: the blocks that own the words take them. -/
def State.takeWrite (s : State) (requester : Requester) (address : Nat) (data : List Word) : State := match s.region address with
  | .control => (s.takeCommandWords address data).takeConsumerWord address data
  | .raw => match s.liveRaw address with
    | none => s
    | some w => s.takeRawWrite (s.rawWrite w requester address data)
  | .pilot => s.pilotsWritten ⟨address, 4 * data.length⟩
  | .stack => s
  | .scratch => s
  | .outside => s

/-! ### Transactions (R116, R117) -/

/-- The port answers (R116; assumption log 24). -/
def State.giveAnswer (s : State) (a : UpstreamAnswer) : State := { s with answer := some a }

/-- A write is decided (R118, R121 to R123). -/
def State.decideWrite (requester : Requester) (address : Nat) (data : List Word) (s : State) : State :=
  match malformed address data.length with
  | some r => (s.submit .malformed address (some requester) r.code).giveAnswer .abort
  | none => match s.refusal address data.length with
    | some part => (s.submit .protect address (some requester) part.code).giveAnswer .abort
    | none =>
      if s.hasRoomFor requester address data then
        ((s.forward requester address data).takeWrite requester address data).giveAnswer .accept
      else s.giveAnswer .retry

/-- The port takes a transaction when no read holds it (R117; assumption log 7). -/
def State.portFree (s : State) : Bool := s.held.isNone

/-- A write transaction. -/
def State.writeTransaction (requester : Requester) (address : Address) (data : List Word) (s : State) :
    Host.Outcome State Fault Refusal :=
  State.laterEvent State.portFree (State.decideWrite requester address.toNat data) s

/-- UPSTREAM_WRITE. -/
def execUpstreamWrite (requester : Requester) (address : Address) (data : List Word) (s : State) :
    Host.Outcome State Fault Refusal := State.writeTransaction requester address data s

/-- RAW_WINDOW_WRITE: the decoder decides by the address, as for every write (assumption log 6). -/
def execRawWindowWrite (requester : Requester) (address : Address) (data : List Word) (s : State) :
    Host.Outcome State Fault Refusal := State.writeTransaction requester address data s

/-- CONSUMER_INDEX_WRITE: the decoder decides by the address, as for every write (assumption log 6). -/
def execConsumerIndexWrite (requester : Requester) (address : Address) (data : List Word) (s : State) :
    Host.Outcome State Fault Refusal := State.writeTransaction requester address data s

/-! ### Reads (R126, R131, R132) -/

/-- The Read Path presents the held read (R131). -/
def State.issueHeld (s : State) (h : HeldRead) : State :=
  { s with held := some { h with issued := true }, port := s.port.presentForward .passThroughRead (.read h.address h.length) }

/-- A pass-through read holds the port; it is issued at once when the buffer is empty (R131). -/
def State.holdRead (s : State) (requester : Requester) (address length : Nat) : State :=
  let h : HeldRead := ⟨requester, address, length, false⟩
  let s1 : State := { s with held := some h, answer := none }
  if s.pwb.isEmpty then s1.issueHeld h else s1

/-- A read answered by the Deferred Read Queue. -/
def State.answeredRead (r : UpstreamAnswer × State) : State := r.2.giveAnswer r.1

/-- A well-formed read is decided (R126). -/
def State.decideRead (s : State) (requester : Requester) (address length : Nat) : State := match s.stackSlotAt address with
  | none => s.holdRead requester address length
  | some i =>
    if s.region address ≠ .stack then s.holdRead requester address length
    else match (s.slotEntry i).state with
      | .free => s.holdRead requester address length
      | .sealed => match s.sealedRead requester address length with
        | none => s.holdRead requester address length
        | some r => State.answeredRead r
      | .opened => State.answeredRead (s.deferRead requester address length i)
      | .complete => State.answeredRead (s.deferRead requester address length i)
      | .sealing => State.answeredRead (s.deferRead requester address length i)

/-- A read transaction (R118, R126). -/
def State.readTransaction (requester : Requester) (address length : Nat) (s : State) : State :=
  match malformed address length with
  | some r => (s.submit .malformed address (some requester) r.code).giveAnswer .abort
  | none => s.decideRead requester address length

/-- UPSTREAM_READ. -/
def execUpstreamRead (requester : Requester) (address : Address) (length : Nat) (s : State) : Host.Outcome State Fault Refusal :=
  State.laterEvent State.portFree (State.readTransaction requester address.toNat length) s

/-- The buffer is empty and a held read has not been issued (R131). -/
def State.readIssueDue (s : State) : Bool := s.pwb.isEmpty && s.held.any (fun h => !h.issued)

/-- The held read is issued (R131). -/
def State.issueRead (s : State) : State := match s.held with
  | none => s
  | some h => s.issueHeld h

/-- PASS_THROUGH_READ_ISSUE. -/
def execPassThroughReadIssue (s : State) : Host.Outcome State Fault Refusal := State.laterEvent State.readIssueDue State.issueRead s

/-- The look of R106 lets the words through: the slot is SEALED or FREE, or the read lies in no stack slot (R132; assumption log 22).
DESIGN CHOICE: R106 answers RETRY to a read of a FREE slot claimed before the answer, and its table goes by the state at the answer; a slot
claimed and then SEALED, or FREE again, is judged by that state (assumption log 39). -/
def State.lookAgain (s : State) (address : Nat) : Bool := match s.slotStateAt address with
  | .free => true
  | .sealed => true
  | .opened => false
  | .complete => false
  | .sealing => false

/-- The Read Path's transfer has been answered, and the port is released (R132). -/
def State.readAnswered (s : State) (ok : Bool) (words : List Word) : State := match s.held with
  | none => s
  | some h =>
    let s1 : State := { s with held := none }
    if ok = false then s1.giveAnswer .abort
    else if s.lookAgain h.address then s1.giveAnswer (.data words)
    else s1.giveAnswer .retry

/-! ### Deliveries (R128, R129) -/

/-- A write has left the buffer: a check that waits for the drain is told (R130). -/
def State.popWrite (s : State) (rest : List PwbEntry) : State :=
  { s with pwb := rest, commands := { s.commands with progress := s.commands.progress.map CommandProgress.drained } }

/-- A delivery has been answered; one answered FAULT is discarded with FORWARD_FAULT (R128, R129). -/
def State.deliveryAnswered (s : State) (ok : Bool) : State := match s.pwb with
  | [] => s
  | w :: rest =>
    if ok then s.popWrite rest
    else (s.popWrite rest).submit .forwardFault w.address (some w.requester) w.data.length

end Sys2Proof.Machine
end

