-- ==== Sys2Proof/Machine/Answers.lean ====
section
/-! DEFINITION. The DRAM's answers (spec/08): what an attempt leaves in memory, BUSY and its limit, the answer to the source or client,
and the attempt that a line reset abandoned. -/

namespace Sys2Proof.Machine

/-! ### The answer to an attempt (R137, R145) -/

/-- The source of a forwarding transfer acts on its answer (R128, R132). -/
def State.forwardAnswered (s : State) (source : ForwardSource) (ok : Bool) (words : List Word) : State := match source with
  | .delivery => s.deliveryAnswered ok
  | .passThroughRead => s.readAnswered ok words

/-- A client acts on its answer. -/
def State.clientAnswered (s : State) (c : Client) (ok : Bool) (words : List Word) : State := match c with
  | .engine => s.engineAnswered ok words
  | .stackUnit => s.stackAnswered ok words
  | .pilotUnit => s.checkAnswered ok words
  | .drqFetch => s.fetchAnswered ok words
  | .reportUnit => s.reportAnswered ok

/-- The transfer of a side whose attempt is at the DRAM. -/
def Port.atDram (p : Port) : Side → Option Outstanding
  | .forwarding => p.forward.map (·.2)
  | .part => p.current.bind (fun c => (p.client c).out)

/-- The attempt of the forwarding side has been answered OK or FAULT. -/
def State.forwardAttempt (s : State) (a : DramAnswer) : State := match s.port.forward with
  | none => s
  | some (source, o) =>
    State.forwardAnswered { s with memory := s.memory.attempt o.transfer a, port := s.port.forwardAnswered } source (answerOk a)
      (s.memory.answerWords o.transfer a)

/-- The answer of abandoned work is discarded (R146). The engine whose new item waited behind it for a sweep that has left since goes
on with that item (R27; assumption log 18). -/
def State.discardedAnswer (s : State) : Client → State
  | .engine => match s.engine.work with
    | none => s
    | some work => if work.left then s.skipWork work else s
  | .stackUnit => s
  | .pilotUnit => s
  | .drqFetch => s
  | .reportUnit => s

/-- The attempt of the part side has been answered OK or FAULT (R145, R146). -/
def State.partAttempt (s : State) (a : DramAnswer) (c : Client) : State := match (s.port.client c).out with
  | none => s
  | some o =>
    let s1 : State := { s with memory := s.memory.attempt o.transfer a, port := s.port.clientAnswered c }
    if o.abandoned then s1.discardedAnswer c else s1.clientAnswered c (answerOk a) (s.memory.answerWords o.transfer a)

/-- The attempt at the DRAM has been answered OK or FAULT (R145). -/
def State.attemptAnswered (a : DramAnswer) (s : State) : State := match s.port.attempt with
  | none => s
  | some .forwarding => s.forwardAttempt a
  | some .part => match s.port.current with
    | none => s
    | some c => s.partAttempt a c

/-! ### BUSY (R144) -/

/-- One more BUSY answer on a transfer. -/
def Outstanding.met (o : Outstanding) : Outstanding := { o with busy := o.busy + 1 }

/-- The transfer at the DRAM has met BUSY and its next attempt is due (R144). -/
def Port.busy (p : Port) : Port := match p.attempt with
  | none => p
  | some .forwarding => { p with forward := p.forward.map (fun x => (x.1, x.2.met)), attempt := none }
  | some .part => match p.current with
    | none => p
    | some c => { p.setClient c { p.client c with out := (p.client c).out.map Outstanding.met } with attempt := none }

/-- An attempt has been answered BUSY: the 1,025th BUSY of a transfer is FAULT with nothing in memory (R144). -/
def State.attemptBusy (s : State) : State :=
  match s.port.attempt.bind s.port.atDram with
  | none => s
  | some o => if o.busy < Config.busyLimit then { s with port := s.port.busy } else s.attemptAnswered (.fault [])

/-- An attempt is at the DRAM. -/
def State.attemptDue (s : State) : Bool := s.port.attempt.isSome

/-- ATTEMPT_BUSY. -/
def execAttemptBusy (s : State) : Host.Outcome State Fault Refusal := State.laterEvent State.attemptDue State.attemptBusy s

/-! ### The rows of the answers -/

/-- The attempt at the DRAM is one of a source of the forwarding side. -/
def State.forwardDue (source : ForwardSource) (s : State) : Bool :=
  s.port.attempt == some .forwarding && s.port.forward.any (fun x => x.1 == source)

/-- The attempt at the DRAM is one of a client. -/
def State.clientDue (c : Client) (s : State) : Bool := s.port.attempt == some .part && s.port.current == some c

/-- PWB_DELIVERY_ANSWER (R128). -/
def execPwbDeliveryAnswer (a : DramAnswer) (s : State) : Host.Outcome State Fault Refusal :=
  State.laterEvent (State.forwardDue .delivery) (State.attemptAnswered a) s

/-- PASS_THROUGH_READ_ANSWER (R132). -/
def execPassThroughReadAnswer (a : DramAnswer) (s : State) : Host.Outcome State Fault Refusal :=
  State.laterEvent (State.forwardDue .passThroughRead) (State.attemptAnswered a) s

/-- ENGINE_TRANSFER_ANSWER (R26, R32). -/
def execEngineTransferAnswer (a : DramAnswer) (s : State) : Host.Outcome State Fault Refusal :=
  State.laterEvent (State.clientDue .engine) (State.attemptAnswered a) s

/-- STACK_UNIT_TRANSFER_ANSWER (R85). -/
def execStackUnitTransferAnswer (a : DramAnswer) (s : State) : Host.Outcome State Fault Refusal :=
  State.laterEvent (State.clientDue .stackUnit) (State.attemptAnswered a) s

/-- DRQ_FETCH_ANSWER (R108). -/
def execDrqFetchAnswer (a : DramAnswer) (s : State) : Host.Outcome State Fault Refusal :=
  State.laterEvent (State.clientDue .drqFetch) (State.attemptAnswered a) s

/-- PILOT_CHECK_READ_ANSWER (R54). -/
def execPilotCheckReadAnswer (a : DramAnswer) (s : State) : Host.Outcome State Fault Refusal :=
  State.laterEvent (State.clientDue .pilotUnit) (State.attemptAnswered a) s

/-- The four kinds of write of the Report Unit's client (R177). -/
inductive ReportWriteKind where
  | record
  | producer
  | mirror
  | slotWrite
  deriving DecidableEq, Repr

/-- The kind of a write. -/
def ReportWrite.kind : ReportWrite → ReportWriteKind
  | .record _ _ => .record
  | .producer _ => .producer
  | .mirror _ => .mirror
  | .slotWrite _ => .slotWrite

/-- The attempt at the DRAM is the Report Unit client's, for a write of the kind. -/
def State.reportDue (k : ReportWriteKind) (s : State) : Bool :=
  State.clientDue .reportUnit s && s.reports.out.any (fun o => o.write.kind == k)

/-- REPORT_WRITE_ANSWER (R177, R178). -/
def execReportWriteAnswer (a : DramAnswer) (s : State) : Host.Outcome State Fault Refusal :=
  State.laterEvent (State.reportDue .record) (State.attemptAnswered a) s

/-- PRODUCER_WRITE_ANSWER (R178). -/
def execProducerWriteAnswer (a : DramAnswer) (s : State) : Host.Outcome State Fault Refusal :=
  State.laterEvent (State.reportDue .producer) (State.attemptAnswered a) s

/-- MIRROR_WRITE_ANSWER (R97). -/
def execMirrorWriteAnswer (a : DramAnswer) (s : State) : Host.Outcome State Fault Refusal :=
  State.laterEvent (State.reportDue .mirror) (State.attemptAnswered a) s

/-- COMMAND_SLOT_WRITE_ANSWER (R152). -/
def execCommandSlotWriteAnswer (a : DramAnswer) (s : State) : Host.Outcome State Fault Refusal :=
  State.laterEvent (State.reportDue .slotWrite) (State.attemptAnswered a) s

/-! ### The attempt abandoned by line reset (R147) -/

/-- The DRAM has not finished with an abandoned attempt. -/
def State.abandonedDue (s : State) : Bool := s.port.abandoned.isSome

/-- The DRAM has finished with it; the words of a WRITE that landed are in memory (R147). -/
def State.abandonedFinished (landed : List Bool) (s : State) : State := match s.port.abandoned with
  | none => s
  | some t => { s with memory := s.memory.attempt t (.fault landed), port := { s.port with abandoned := none } }

/-- ABANDONED_ATTEMPT_FINISHED. -/
def execAbandonedAttemptFinished (landed : List Bool) (s : State) : Host.Outcome State Fault Refusal :=
  State.laterEvent State.abandonedDue (State.abandonedFinished landed) s

end Sys2Proof.Machine
end

