-- ==== Sys2Proof/Machine/Lines.lean ====
section
/-! DEFINITION. The lines RESETn and TICK: line reset (R165, R173 and each block's line-reset rule) and the countdowns (R40, R41,
R111, R172). -/

namespace Sys2Proof.Machine

/-! ### RESETn -/

/-- The attempt that a line reset leaves at the DRAM (R147). -/
def State.leftAtDram (s : State) : Option Transfer := match s.port.attempt with
  | none => s.port.abandoned
  | some side => (s.port.atDram side).map (·.transfer)

/-- The state that a line reset leaves, for the straps as sampled (R173). Memory and the queue of commands are kept. -/
def State.lineReset (cbase : BitVec 4) (s : State) : State := State.lineResetValues cbase s.leftAtDram s.memory s.pending

/-- LINE_RESET: RESETn low and released (assumption log 13); with the release the first mirror write is presented (R180; log 4). -/
def execLineReset (cbase : BitVec 4) (s : State) : Host.Outcome State Fault Refusal := .next (s.lineReset cbase).settle

/-! ### TICK (R172) -/

/-- The running Stall Timer is lowered by one; at 0 it expires (R40, R41). -/
def State.tickStall (s : State) : State := match s.sweeps.stallTimer with
  | none => s
  | some n => if n ≤ 1 then s.stallExpire else { s with sweeps := { s.sweeps with stallTimer := some (n - 1) } }

/-- Every discard countdown is lowered, in increasing entry index (R111). -/
def State.tickDrq (s : State) : State := (List.range Config.drqCount).foldl State.countDown s

/-- A pulse reaches every running countdown, the Stall Timer first (R172). -/
def State.pulse (s : State) : State := s.tickStall.tickDrq

/-- TICK. -/
def execTick (s : State) : Host.Outcome State Fault Refusal := State.laterEvent (fun _ => true) State.pulse s

/-- The Stall Timer runs and the next count brings it to 0. -/
def State.stallExpiryDue (s : State) : Bool := s.sweeps.stallTimer.any (fun n => n ≤ 1)

/-- STALL_TIMER_EXPIRY: the pulse that brings the Stall Timer to 0 (R41, R172; assumption log 5). -/
def execStallTimerExpiry (s : State) : Host.Outcome State Fault Refusal := State.laterEvent State.stallExpiryDue State.pulse s

/-- The entry is in use and the next count brings its countdown to 0. -/
def State.discardExpiryDue (i : Nat) (s : State) : Bool := (s.drqEntry i).any (fun e => e.countdown ≤ 1)

/-- DISCARD_COUNTDOWN_EXPIRY: the pulse that brings an entry's countdown to 0 (R111, R172; assumption log 5). -/
def execDiscardCountdownExpiry (entry : Nat) (s : State) : Host.Outcome State Fault Refusal :=
  State.laterEvent (State.discardExpiryDue entry) State.pulse s

end Sys2Proof.Machine
end

