-- ==== Sys2Proof/Machine/Steps.lean ====
section
/-! DEFINITION. The rows in which the internal blocks take their own next step. Each step is defined with its block. -/

namespace Sys2Proof.Machine

/-- CLEAR_SWEEP (R26). -/
def execClearSweep (s : State) : Host.Outcome State Fault Refusal := State.laterEvent State.clearSweepDue State.takeClear s

/-- PROCESS_SCAN (R27). -/
def execProcessScan (s : State) : Host.Outcome State Fault Refusal := State.laterEvent State.processScanDue State.takeProcess s

/-- CLEAR_SLOT (R83). -/
def execClearSlot (s : State) : Host.Outcome State Fault Refusal := State.laterEvent State.clearSlotDue State.takeClearSlot s

/-- FOLD (R84). -/
def execFold (s : State) : Host.Outcome State Fault Refusal := State.laterEvent State.foldDue State.takeFold s

/-- SEAL (R94). -/
def execSeal (s : State) : Host.Outcome State Fault Refusal := State.laterEvent State.sealDue State.takeSeal s

/-- PILOT_CHECK_START (R54). -/
def execPilotCheckStart (s : State) : Host.Outcome State Fault Refusal := State.laterEvent State.checkStartDue State.startCheck s

/-- BUSY_WRITE_HANDED (R150). -/
def execBusyWriteHanded (s : State) : Host.Outcome State Fault Refusal := State.laterEvent State.busyWriteDue State.handBusyWrite s

/-- ENGINE_RESET_SCAN_ASSEMBLER (R161). -/
def execEngineResetScanAssembler (s : State) : Host.Outcome State Fault Refusal :=
  State.laterEvent State.resetScansDue State.resetScans s

/-- ENGINE_RESET_DONE (R162). -/
def execEngineResetDone (s : State) : Host.Outcome State Fault Refusal := State.laterEvent State.resetDoneDue State.resetDone s

end Sys2Proof.Machine
end

