-- ==== Sys2Proof/Machine/Dispatch.lean ====
section
/-! DEFINITION. One arm for each command: a direct call of its meaning. -/

namespace Sys2Proof.Machine

/-- The effect of a command on everything but the queue of commands. -/
def exec (i : Instr) (s : State) : Host.Outcome State Fault Refusal :=
  match i with
  | .lineReset b => Sys2Proof.Machine.execLineReset b s
  | .tick => Sys2Proof.Machine.execTick s
  | .stallTimerExpiry => Sys2Proof.Machine.execStallTimerExpiry s
  | .discardCountdownExpiry e => Sys2Proof.Machine.execDiscardCountdownExpiry e s
  | .upstreamWrite r a d => Sys2Proof.Machine.execUpstreamWrite r a d s
  | .rawWindowWrite r a d => Sys2Proof.Machine.execRawWindowWrite r a d s
  | .consumerIndexWrite r a d => Sys2Proof.Machine.execConsumerIndexWrite r a d s
  | .upstreamRead r a n => Sys2Proof.Machine.execUpstreamRead r a n s
  | .passThroughReadIssue => Sys2Proof.Machine.execPassThroughReadIssue s
  | .passThroughReadAnswer x => Sys2Proof.Machine.execPassThroughReadAnswer x s
  | .pwbDeliveryAnswer x => Sys2Proof.Machine.execPwbDeliveryAnswer x s
  | .attemptBusy => Sys2Proof.Machine.execAttemptBusy s
  | .clearSweep => Sys2Proof.Machine.execClearSweep s
  | .processScan => Sys2Proof.Machine.execProcessScan s
  | .engineTransferAnswer x => Sys2Proof.Machine.execEngineTransferAnswer x s
  | .clearSlot => Sys2Proof.Machine.execClearSlot s
  | .fold => Sys2Proof.Machine.execFold s
  | .seal => Sys2Proof.Machine.execSeal s
  | .stackUnitTransferAnswer x => Sys2Proof.Machine.execStackUnitTransferAnswer x s
  | .drqFetchAnswer x => Sys2Proof.Machine.execDrqFetchAnswer x s
  | .pilotCheckStart => Sys2Proof.Machine.execPilotCheckStart s
  | .pilotCheckReadAnswer x => Sys2Proof.Machine.execPilotCheckReadAnswer x s
  | .reportWriteAnswer x => Sys2Proof.Machine.execReportWriteAnswer x s
  | .producerWriteAnswer x => Sys2Proof.Machine.execProducerWriteAnswer x s
  | .mirrorWriteAnswer x => Sys2Proof.Machine.execMirrorWriteAnswer x s
  | .busyWriteHanded => Sys2Proof.Machine.execBusyWriteHanded s
  | .commandSlotWriteAnswer x => Sys2Proof.Machine.execCommandSlotWriteAnswer x s
  | .badKindCommand => Sys2Proof.Machine.execBadKindCommand s
  | .setGeometry => Sys2Proof.Machine.execSetGeometry s
  | .setWindow => Sys2Proof.Machine.execSetWindow s
  | .windowChange => Sys2Proof.Machine.execWindowChange s
  | .setTimers => Sys2Proof.Machine.execSetTimers s
  | .readState => Sys2Proof.Machine.execReadState s
  | .engineReset => Sys2Proof.Machine.execEngineReset s
  | .engineResetScanAssembler => Sys2Proof.Machine.execEngineResetScanAssembler s
  | .engineResetDone => Sys2Proof.Machine.execEngineResetDone s
  | .noticeSweep => Sys2Proof.Machine.execNoticeSweep s
  | .cancelSweep => Sys2Proof.Machine.execCancelSweep s
  | .readSweep => Sys2Proof.Machine.execReadSweep s
  | .definePilot => Sys2Proof.Machine.execDefinePilot s
  | .removePilot => Sys2Proof.Machine.execRemovePilot s
  | .muteChannel => Sys2Proof.Machine.execMuteChannel s
  | .unmuteChannel => Sys2Proof.Machine.execUnmuteChannel s
  | .readChannel => Sys2Proof.Machine.execReadChannel s
  | .openSourcePoint => Sys2Proof.Machine.execOpenSourcePoint s
  | .slotClaim => Sys2Proof.Machine.execSlotClaim s
  | .closeSourcePoint => Sys2Proof.Machine.execCloseSourcePoint s
  | .releaseStack => Sys2Proof.Machine.execReleaseStack s
  | .setArbiter => Sys2Proof.Machine.execSetArbiter s
  | .setMode => Sys2Proof.Machine.execSetMode s
  | .setReports => Sys2Proof.Machine.execSetReports s
  | .abandonedAttemptFinished l => Sys2Proof.Machine.execAbandonedAttemptFinished l s

end Sys2Proof.Machine
end

