-- ==== Sys2Proof/Safety.lean ====
section
/-! DEFINITION. The words in which statements about the part are made: what holds of every state that a run reaches (invariants), when
each row is due, and the head of the command queue. Nothing here is part of the machine. -/

namespace Sys2Proof.Machine

/-! ### Invariants -/

/-- The DRAM's words are in canonical form. -/
def State.memoryOk (s : State) : Prop := s.memory.wf

/-- The Posted Write Buffer holds at most 32 writes, each of well-formed size and place (R118, R127). -/
def State.bufferOk (s : State) : Prop :=
  s.pwb.length ≤ 32 ∧ ∀ w ∈ s.pwb, malformed w.address w.data.length = none

/-- The mode and the requested mode agree as R165 says. -/
def modesAgree (mode requested : Mode) : Prop := match mode with
  | .idle => requested = .idle
  | .acquire => requested = .acquire
  | .draining => requested = .idle

/-- R165 holds of the state. -/
def State.modesOk (s : State) : Prop := modesAgree s.mode s.requestedMode

/-- Scan Staging as R3 and R4 say: at most four scans, at most two of them FILLING, in strictly rising scan number, none above the
newest admitted one, and no two FILLING entries of one slot. -/
def Assembler.ok (a : Assembler) : Prop :=
  a.staging.length ≤ 4 ∧ a.fillingEntries.length ≤ 2 ∧
    a.staging.Pairwise (fun e f => e.scan < f.scan) ∧
    (∀ e ∈ a.staging, ∃ n, a.newest = some n ∧ e.scan ≤ n) ∧
    a.fillingEntries.Pairwise (fun e f => e.slot ≠ f.slot)

/-- Scan Staging of the state. -/
def State.stagingOk (s : State) : Prop := s.assembler.ok

/-- The sizes of the tables: 24 sweeps, 16 pilots, 3,072 channels, 32 directory entries, 8 deferred reads, 8 command slots, 32 mirror
marks (R20, R50, R63, R77, R102, R148). -/
def State.sizes (s : State) : List Nat :=
  [s.sweeps.table.length, s.pilots.length, s.channels.length, s.directory.length, s.drq.entries.length, s.commands.slots.length,
    s.reports.stale.length]

/-- Every table has its size. -/
def State.tablesOk (s : State) : Prop := s.sizes = [24, 16, 3072, 32, 8, 8, 32]

/-- The settings of a window that is on (R156). -/
def RawWindow.ok (w : RawWindow) : Prop := baseInRange w.base = true ∧ 16 ≤ w.slots ∧ w.slots ≤ 4096
def StackWindow.ok (w : StackWindow) : Prop := baseInRange w.base = true ∧ 1 ≤ w.slots ∧ w.slots ≤ 32
def ScratchWindow.ok (w : ScratchWindow) : Prop := baseInRange w.base = true
def PilotWindow.ok (w : PilotWindow) : Prop :=
  baseInRange w.base = true ∧ w.base ≤ w.limit ∧ w.limit ≤ 2 ^ 40 - 1 ∧ (w.limit + 1) % 64 = 0

/-- The settings that a SET_WINDOW asks for (R156). -/
def WindowSetting.ok : WindowSetting → Prop
  | .raw x => ∀ w, x = some w → w.ok
  | .stack x => ∀ w, x = some w → w.ok
  | .scratch x => ∀ w, x = some w → w.ok
  | .pilot x => ∀ w, x = some w → w.ok

/-- Every window that is on, and the one that a SET_WINDOW in progress waits to set, has settings in range (R156). -/
def State.windowsOk (s : State) : Prop :=
  (∀ w, s.windows.raw = some w → w.ok) ∧ (∀ w, s.windows.stack = some w → w.ok) ∧
    (∀ w, s.windows.scratch = some w → w.ok) ∧ (∀ w, s.windows.pilot = some w → w.ok) ∧
    ∀ w, s.commands.progress = some (.setWindow w) → w.ok

/-- Every setting is in its range: the slices, the geometry, the periods, the windows and the ring size (R143, R155, R156, R158,
R174). -/
def State.settingsOk (s : State) : Prop :=
  (1 ≤ s.port.forwardSlice ∧ s.port.forwardSlice ≤ 255 ∧ 1 ≤ s.port.partSlice ∧ s.port.partSlice ≤ 255) ∧
    (s.geometry = ⟨0, 0, 0⟩ ∨ s.geometry.inRange = true) ∧
    (1 ≤ s.sweeps.stallPeriod ∧ s.sweeps.stallPeriod ≤ 65535) ∧ (1 ≤ s.drq.period ∧ s.drq.period ≤ 65535) ∧
    s.windowsOk ∧ ringSizeOk s.reports.size = true

/-! ### The head of the command queue (R153, R154) -/

/-- No command is in progress, `q` is at the head of the queue, it is of kind `k`, and the mode allows that kind. -/
abbrev State.heads (s : State) (k : CommandKind) (q : QueueEntry) : Prop :=
  s.commands.progress = none ∧ s.commands.queue.head? = some q ∧ q.command = some k ∧ k.available s.mode = true

/-- The row in which a command of a kind begins. -/
def CommandKind.row : CommandKind → Instr
  | .setGeometry => .setGeometry
  | .setWindow => .setWindow
  | .setTimers => .setTimers
  | .readState => .readState
  | .engineReset => .engineReset
  | .noticeSweep => .noticeSweep
  | .cancelSweep => .cancelSweep
  | .readSweep => .readSweep
  | .definePilot => .definePilot
  | .removePilot => .removePilot
  | .muteChannel => .muteChannel
  | .unmuteChannel => .unmuteChannel
  | .readChannel => .readChannel
  | .openSourcePoint => .openSourcePoint
  | .closeSourcePoint => .closeSourcePoint
  | .releaseStack => .releaseStack
  | .setArbiter => .setArbiter
  | .setMode => .setMode
  | .setReports => .setReports

/-! ### A client's transfer at the DRAM (R139, R146) -/

/-- The attempt at the DRAM is that of `c`'s transfer, whose work has not been abandoned. -/
abbrev State.awaits (s : State) (c : Client) (o : Outstanding) : Prop :=
  s.port.attempt = some .part ∧ s.port.current = some c ∧ s.port.client c = ⟨some o, none⟩ ∧ o.abandoned = false

/-- The state in which the client acts on the answer: what the attempt leaves in memory, and the client and the part side free. -/
def State.answeredFor (s : State) (c : Client) (o : Outstanding) (a : DramAnswer) : State :=
  { s with
    memory := s.memory.attempt o.transfer a
    port := { s.port.setClient c ⟨none, none⟩ with current := none, attempt := none } }

/-! ### Transactions -/

/-- The three rows that a write transaction may be named by (assumption log 6). -/
def writeRows (requester : Requester) (address : Address) (data : List Word) : List Instr :=
  [.upstreamWrite requester address data, .rawWindowWrite requester address data, .consumerIndexWrite requester address data]

end Sys2Proof.Machine

namespace Sys2Proof

/-! ### The answers of the DRAM -/

/-- The rows that answer the attempt at the DRAM, for one answer. -/
def answerRows (a : DramAnswer) : List Instr :=
  [.pwbDeliveryAnswer a, .passThroughReadAnswer a, .engineTransferAnswer a, .stackUnitTransferAnswer a, .pilotCheckReadAnswer a,
    .drqFetchAnswer a, .reportWriteAnswer a, .producerWriteAnswer a, .mirrorWriteAnswer a, .commandSlotWriteAnswer a]

/-! ### When a row is due (assumption log 1, log 8) -/

/-- The rows whose step the spec makes at once (R81, R153, R157): the beginnings of commands, the claim and the window change. -/
def Instr.atOnce : Instr → Bool
  | .lineReset _ => false
  | .tick => false
  | .stallTimerExpiry => false
  | .discardCountdownExpiry _ => false
  | .upstreamWrite _ _ _ => false
  | .rawWindowWrite _ _ _ => false
  | .consumerIndexWrite _ _ _ => false
  | .upstreamRead _ _ _ => false
  | .passThroughReadIssue => false
  | .passThroughReadAnswer _ => false
  | .pwbDeliveryAnswer _ => false
  | .attemptBusy => false
  | .clearSweep => false
  | .processScan => false
  | .engineTransferAnswer _ => false
  | .clearSlot => false
  | .fold => false
  | .seal => false
  | .stackUnitTransferAnswer _ => false
  | .drqFetchAnswer _ => false
  | .pilotCheckStart => false
  | .pilotCheckReadAnswer _ => false
  | .reportWriteAnswer _ => false
  | .producerWriteAnswer _ => false
  | .mirrorWriteAnswer _ => false
  | .busyWriteHanded => false
  | .commandSlotWriteAnswer _ => false
  | .engineResetScanAssembler => false
  | .engineResetDone => false
  | .abandonedAttemptFinished _ => false
  | .badKindCommand => true
  | .setGeometry => true
  | .setWindow => true
  | .windowChange => true
  | .setTimers => true
  | .readState => true
  | .engineReset => true
  | .noticeSweep => true
  | .cancelSweep => true
  | .readSweep => true
  | .definePilot => true
  | .removePilot => true
  | .muteChannel => true
  | .unmuteChannel => true
  | .readChannel => true
  | .openSourcePoint => true
  | .slotClaim => true
  | .closeSourcePoint => true
  | .releaseStack => true
  | .setArbiter => true
  | .setMode => true
  | .setReports => true

/-- The state in which the step of a row takes place: its boundary work is done, and for a row that is not due at once whatever is due
at once has been made. -/
def Instr.moment (i : Instr) (s : Machine.State) : Machine.State := if i.atOnce then s.settle else s.caughtUp

/-- Whether the step of a row takes place in such a state. -/
def Instr.due : Instr → Machine.State → Bool
  | .lineReset _, _ => true
  | .tick, _ => true
  | .stallTimerExpiry, s => s.stallExpiryDue
  | .discardCountdownExpiry e, s => s.discardExpiryDue e
  | .upstreamWrite _ _ _, s => s.portFree
  | .rawWindowWrite _ _ _, s => s.portFree
  | .consumerIndexWrite _ _ _, s => s.portFree
  | .upstreamRead _ _ _, s => s.portFree
  | .passThroughReadIssue, s => s.readIssueDue
  | .passThroughReadAnswer _, s => s.forwardDue .passThroughRead
  | .pwbDeliveryAnswer _, s => s.forwardDue .delivery
  | .attemptBusy, s => s.attemptDue
  | .clearSweep, s => s.clearSweepDue
  | .processScan, s => s.processScanDue
  | .engineTransferAnswer _, s => s.clientDue .engine
  | .clearSlot, s => s.clearSlotDue
  | .fold, s => s.foldDue
  | .seal, s => s.sealDue
  | .stackUnitTransferAnswer _, s => s.clientDue .stackUnit
  | .drqFetchAnswer _, s => s.clientDue .drqFetch
  | .pilotCheckStart, s => s.checkStartDue
  | .pilotCheckReadAnswer _, s => s.clientDue .pilotUnit
  | .reportWriteAnswer _, s => s.reportDue .record
  | .producerWriteAnswer _, s => s.reportDue .producer
  | .mirrorWriteAnswer _, s => s.reportDue .mirror
  | .busyWriteHanded, s => s.busyWriteDue
  | .commandSlotWriteAnswer _, s => s.reportDue .slotWrite
  | .badKindCommand, s => s.badKindDue
  | .setGeometry, s => s.commandDue .setGeometry
  | .setWindow, s => s.commandDue .setWindow
  | .windowChange, s => s.windowChangeDue
  | .setTimers, s => s.commandDue .setTimers
  | .readState, s => s.commandDue .readState
  | .engineReset, s => s.commandDue .engineReset
  | .engineResetScanAssembler, s => s.resetScansDue
  | .engineResetDone, s => s.resetDoneDue
  | .noticeSweep, s => s.commandDue .noticeSweep
  | .cancelSweep, s => s.commandDue .cancelSweep
  | .readSweep, s => s.commandDue .readSweep
  | .definePilot, s => s.commandDue .definePilot
  | .removePilot, s => s.commandDue .removePilot
  | .muteChannel, s => s.commandDue .muteChannel
  | .unmuteChannel, s => s.commandDue .unmuteChannel
  | .readChannel, s => s.commandDue .readChannel
  | .openSourcePoint, s => s.commandDue .openSourcePoint
  | .slotClaim, s => s.slotClaimDue
  | .closeSourcePoint, s => s.commandDue .closeSourcePoint
  | .releaseStack, s => s.commandDue .releaseStack
  | .setArbiter, s => s.commandDue .setArbiter
  | .setMode, s => s.commandDue .setMode
  | .setReports, s => s.commandDue .setReports
  | .abandonedAttemptFinished _, s => s.abandonedDue

end Sys2Proof
end

