-- ==== Sys2Proof/Certificates/Slice0/Obligations.lean ====
section
/-! DEFINITION. The statements for the provers: what the commands of the part do, rule by rule of spec/, and what holds of every
state. `m` (`f` for a transaction) is the state in which a step takes place. For the rows that are due at once it is the given one with
its boundary work done (`State.settle`; that this work stands at the boundary of an event is the model's choice, log 4); for every other
row whatever is due at once has been made as well (`State.caughtUp`; log 8). SettleFrame says what both do. -/

section Statements

open Sys2Proof Sys2Proof.Machine

/-! ### The machine -/

/-- A step takes the command at the front of the queue and runs it on the rest; an empty queue idles (the model's, log 2). -/
def Obligations.StepRunsFrontCommand : Prop :=
  ∀ (c : Instr) (rest : List Instr) (s : State),
    step { s with pending := c :: rest } = exec c { s with pending := rest } ∧
      step { s with pending := [] } = .next { s with pending := [] }

/-- Every row answers a next state, keeps the queue of commands, and leaves the state alone when it is not due.
That a row which is not due leaves the state alone is the model's choice (log 1). -/
def Obligations.EveryRowAnswersNext : Prop :=
  ∀ (i : Instr) (s : State),
    (∃ t, exec i s = .next t ∧ t.pending = s.pending) ∧ (i.due (i.moment s) = false → exec i s = .next s)

/-- The values after line reset, for any straps, attempt left at the DRAM, memory and queue; and State.reset is such a state, with
straps 0 (the model's, log 12) and no memory listed.
The straps and the memory of State.reset are the model's (log 12, log 10). -/
def Obligations.ResetValues : Prop :=
  (∀ (b : BitVec 4) (a : Option Transfer) (mem : Memory) (q : List Instr),
    State.lineResetValues b a mem q =
      { geometry := ⟨0, 0, 0⟩
        windows := ⟨none, none, none, none⟩
        cbase := b
        mode := .idle
        requestedMode := .idle
        assembler := ⟨[], none, none⟩
        sweeps := ⟨List.replicate 24 none, none, 2000⟩
        engine := ⟨[], none⟩
        pilots := List.replicate 16 ⟨.empty, 0, 0, 0, 0⟩
        channels := List.replicate 3072 ⟨0, .good⟩
        directory := List.replicate 32 ⟨.free, 0, 0, 0, 0, 0, 0, 0, 0, 0, false, false, [], []⟩
        stackUnit := ⟨[], none⟩
        drq := ⟨List.replicate 8 none, [], 500⟩
        pwb := []
        held := none
        answer := none
        port :=
          { forward := none, engine := ⟨none, none⟩, stackUnit := ⟨none, none⟩, pilotUnit := ⟨none, none⟩
            drqFetch := ⟨none, none⟩, reportUnit := ⟨none, none⟩, fetchFor := none, current := none, rotation := .reportUnit
            holder := .forwarding, sliceCount := 0, forwardSlice := 8, partSlice := 8, attempt := none, abandoned := a }
        commands := ⟨List.replicate 8 ⟨List.replicate 8 0, false, none, false⟩, [], none, []⟩
        reports := ⟨0, false, 0, 0, [], [], none, false, true, List.replicate 32 true⟩
        memory := mem
        pending := q }) ∧
    State.reset = State.lineResetValues 0 none [] [] ∧ State.reset.attn = false

/-- LINE_RESET, in every state: the reset values, memory and the waiting commands kept, an attempt at the DRAM left behind as
abandoned, and the write of mirror record 0 presented, at the DRAM at once when nothing was left there.
That the low interval of RESETn is one event is the model's (log 13). That the first mirror write is presented, and given to the DRAM,
in that same event is the model's (log 4). -/
def Obligations.LineResetState : Prop :=
  ∀ (b : BitVec 4) (s : State) (left : Option Transfer),
    left = (match s.port.attempt with
      | none => s.port.abandoned
      | some side => (s.port.atDram side).map (·.transfer)) →
    exec (.lineReset b) s = .next
      { State.lineResetValues b left s.memory s.pending with
        port := { Port.atReset left with
          reportUnit := ⟨some ⟨.write (64 * 2 ^ 30 * b.toNat + 0x400) [0, 0, 0, 0, 0, 0, 0, 0], 0, false⟩, none⟩
          holder := if left.isSome then .forwarding else .part
          current := if left.isSome then none else some .reportUnit
          attempt := if left.isSome then none else some .part }
        reports := { Reports.atReset with stale := false :: List.replicate 31 true, out := some ⟨.mirror 0, false⟩ } }

/-- The boundary of an event changes the memory port and the Report Unit alone. It takes no outstanding transfer back and changes no
setting, and of the Report Unit it changes the hand order, the stale marks, the outstanding write and the producer write that is due,
and those only when the client has no write outstanding.
A row that is not itself due at once takes place after whatever is due at once: the beginning of the head command, a claim, a window
change, each as its own row makes it, until none is due.
That these steps are made before the other rows is the model's reading of "at once" and "first moment" (log 8). -/
def Obligations.SettleFrame : Prop :=
  (∀ s : State,
    s.settle = { s with port := s.settle.port, reports := s.settle.reports } ∧
    (∀ c, (s.port.client c).out.isSome = true → s.settle.port.client c = s.port.client c) ∧
    (∀ x, s.port.forward = some x → s.settle.port.forward = some x) ∧
    s.settle.port.abandoned = s.port.abandoned ∧
    s.settle.port.forwardSlice = s.port.forwardSlice ∧ s.settle.port.partSlice = s.port.partSlice ∧
    (∀ side, s.port.attempt = some side → s.settle.port.attempt = some side) ∧
    (s.port.reportUnit.out.isSome = true → s.settle.reports = s.reports) ∧
    s.settle.reports = { s.reports with
      handOrder := s.settle.reports.handOrder
      stale := s.settle.reports.stale
      out := s.settle.reports.out
      producerDue := s.settle.reports.producerDue } ∧
    (s.settle.reports.producerDue = true → s.reports.producerDue = true)) ∧
  (∀ s : State, s.caughtUp.overdue = false ∧ (s.settle.overdue = false → s.caughtUp = s.settle)) ∧
  (∀ (s t : State) (i : Instr), s.settle.overdue = true → i.atOnce = true → i.due s.settle = true → exec i s = .next t →
    s.caughtUp = t.caughtUp) ∧
  (∀ s : State, s.commands.queue ≠ [] → (s.settle.overdue = true ↔ ∃ i : Instr, i.atOnce = true ∧ i.due s.settle = true))

/-- R141's table, for a port with no attempt at the DRAM, what the side that issues does (R140), and that after the boundary of an
event no decision is left to make. -/
def Obligations.ArbiterDecision : Prop :=
  (∀ p : Port, p.attempt = none → p.abandoned = none →
    (p.waiting p.holder = false → p.waiting p.holder.other = false → p.arbitrate = p) ∧
    (p.waiting p.holder = true → p.waiting p.holder.other = false → p.arbitrate = p.issue p.holder) ∧
    (p.waiting p.holder = false → p.waiting p.holder.other = true →
      p.arbitrate = { p with holder := p.holder.other, sliceCount := 0 }.issue p.holder.other) ∧
    (p.waiting p.holder = true → p.waiting p.holder.other = true → p.sliceCount < p.slice p.holder →
      p.arbitrate = { p with sliceCount := p.sliceCount + 1 }.issue p.holder) ∧
    (p.waiting p.holder = true → p.waiting p.holder.other = true → p.slice p.holder ≤ p.sliceCount →
      p.arbitrate = { p with holder := p.holder.other, sliceCount := 1 }.issue p.holder.other)) ∧
  (∀ p : Port, p.issue .forwarding = { p with attempt := some .forwarding }) ∧
  (∀ (p : Port) (c : Client), p.current = some c → p.issue .part = { p with attempt := some .part }) ∧
  (∀ (p : Port) (c : Client) (before after : List Client), p.current = none → Client.after p.rotation = before ++ c :: after →
    (∀ d ∈ before, (p.client d).out = none) → (p.client c).out.isSome = true →
    p.issue .part = { p with current := some c, rotation := c, attempt := some .part }) ∧
  (∀ (s : State) (side : Side), s.settle.port.attempt = none → s.settle.port.abandoned = none →
    s.settle.port.waiting side = false)

/-! ### Time -/

/-- TICK. When no countdown comes to 0, every running one is lowered by one and nothing else changes. In every state the Stall Timer is
counted first, with its expiry when it comes to 0 (StallExpiry), then each discard countdown in increasing entry index: one that comes
to 0 frees its entry with READ_DISCARDED, TIMEOUT. DISCARD_COUNTDOWN_EXPIRY is the pulse that brings that countdown to 0.
The expiry as a row of its own is the model's (log 5). -/
def Obligations.TickAndDiscard : Prop :=
  (∀ s m : State, m = s.caughtUp → m.drq.entries.length = 8 → (∀ n, m.sweeps.stallTimer = some n → 1 < n) →
    (∀ e, some e ∈ m.drq.entries → 1 < e.countdown) →
    exec .tick s = .next (State.settle { m with
      sweeps := { m.sweeps with stallTimer := m.sweeps.stallTimer.map (fun n => n - 1) }
      drq := { m.drq with entries := m.drq.entries.map (Option.map (fun e => { e with countdown := e.countdown - 1 })) } })) ∧
  (∀ s m x : State, m = s.caughtUp →
    x = (match m.sweeps.stallTimer with
      | none => m
      | some n => if n ≤ 1 then m.stallExpire else { m with sweeps := { m.sweeps with stallTimer := some (n - 1) } }) →
    exec .tick s = .next ((List.range 8).foldl State.countDown x).settle ∧
    ∀ (i : Nat) (e : DrqEntry), m.drq.entries[i]? = some (some e) → e.countdown ≤ 1 →
      exec (.discardCountdownExpiry i) s = .next ((List.range 8).foldl State.countDown x).settle) ∧
  (∀ (y : State) (i : Nat),
    ((∀ e, y.drq.entries[i]? ≠ some (some e)) → y.countDown i = y) ∧
    (∀ e, y.drq.entries[i]? = some (some e) →
      (1 < e.countdown → y.countDown i = { y with
        drq := { y.drq with entries := y.drq.entries.set i (some { e with countdown := e.countdown - 1 }) } }) ∧
      (e.countdown ≤ 1 → y.countDown i = State.submit
        { y with
          drq := { y.drq with entries := y.drq.entries.set i none, fetchOrder := y.drq.fetchOrder.filter (· != i) }
          port := { y.port with fetchFor := if y.port.fetchFor = some i then none else y.port.fetchFor } }
        .readDiscarded e.address (some e.requester) 1)))

/-- STALL_TIMER_EXPIRY is the pulse that brings the Stall Timer to 0. The stalled sweeps are aborted in the order of their entries, then
the correlating ones are stalled, with STREAM_STALLED when there is one, and the timer is reloaded while a sweep remains in a
correlation state; then the discard countdowns are counted.
The expiry as a row of its own is the model's (log 5). The order in which several stalled sweeps leave is the model's (log 32). -/
def Obligations.StallExpiry : Prop :=
  ∀ (s m s1 s2 s3 s4 : State) (n : Nat), m = s.caughtUp → m.sweeps.stallTimer = some n → n ≤ 1 →
    s1 = (m.entriesWhere (fun w => w.state == .stalled)).foldl (fun x e => x.leaveCorrelation e .stallAborted) m →
    s2 = { s1 with sweeps := { s1.sweeps with table := s1.sweeps.table.map (Option.map (fun w =>
      if w.state = .correlating then { w with state := .stalled } else w)) } } →
    s3 = (if s1.entriesWhere (fun w => w.state == .correlating) = [] then s2
      else s2.submit .streamStalled 0 none (s1.entriesWhere (fun w => w.state == .correlating)).length) →
    s4 = { s3 with sweeps := { s3.sweeps with
      stallTimer := if s3.anyCorrelation then some s3.sweeps.stallPeriod else none } } →
    m.stallExpire = s4 ∧ exec .stallTimerExpiry s = .next ((List.range 8).foldl State.countDown s4).settle

/-! ### Memory -/

/-- An attempt answered BUSY keeps its transfer outstanding with its count raised, and its next attempt is due; at the 1,025th BUSY the
row acts as the row of an answer FAULT with no word in memory. -/
def Obligations.BusyAnswer : Prop :=
  (∀ (s m : State) (x : ForwardSource) (o : Outstanding), m = s.caughtUp → m.port.attempt = some .forwarding →
    m.port.forward = some (x, o) → o.busy < 1024 →
    exec .attemptBusy s = .next (State.settle { m with
      port := { m.port with forward := some (x, { o with busy := o.busy + 1 }), attempt := none } })) ∧
  (∀ (s m : State) (c : Client) (o : Outstanding), m = s.caughtUp → m.port.attempt = some .part → m.port.current = some c →
    (m.port.client c).out = some o → o.busy < 1024 →
    exec .attemptBusy s = .next (State.settle { m with
      port := { m.port.setClient c ⟨some { o with busy := o.busy + 1 }, (m.port.client c).next⟩ with attempt := none } })) ∧
  (∀ (s m : State) (side : Side) (o : Outstanding) (i : Instr), m = s.caughtUp → m.port.attempt = some side →
    m.port.atDram side = some o → 1024 ≤ o.busy → i.due m = true →
    i ∈ answerRows (.fault []) →
    exec .attemptBusy s = exec i s) ∧
  (∀ (mem : Memory) (t : Transfer), mem.attempt t (.fault []) = mem)

/-- Words written to memory in canonical form are read back, and every other word reads as before. A row that answers an attempt leaves in
memory what its operand makes of the transfer at the DRAM; the row that ends an attempt abandoned by a line reset leaves what its operand
makes of that one; every other row, ATTEMPT_BUSY among them, leaves memory as it was.
Memory as listed words is the model's (log 9, log 10). Which words of a FAULT are in memory is an operand (log 11), for a producer write
too (log 38). -/
def Obligations.MemoryWordsChange : Prop :=
  (∀ (mem : Memory) (a : Nat) (ws : List Word), mem.wf →
    (mem.writeWords a ws).wf ∧ (mem.writeWords a ws).readWords a ws.length = ws ∧
      ∀ b, (∀ i < ws.length, b ≠ a + 4 * i) → (mem.writeWords a ws).read b = mem.read b) ∧
  (∀ (i : Instr) (a : DramAnswer) (s t m : State), m = s.caughtUp → i ∈ answerRows a → exec i s = .next t →
    (i.due m = false → t.memory = s.memory) ∧
    (i.due m = true → t.memory = match m.port.attempt.bind m.port.atDram with
      | none => s.memory
      | some o => s.memory.attempt o.transfer a)) ∧
  (∀ (landed : List Bool) (s t : State), exec (.abandonedAttemptFinished landed) s = .next t →
    t.memory = match s.port.abandoned with
      | none => s.memory
      | some x => s.memory.attempt x (.fault landed)) ∧
  (∀ (i : Instr) (s t : State), (∀ a, i ∉ answerRows a) → (∀ landed, i ≠ .abandonedAttemptFinished landed) →
    exec i s = .next t → t.memory = s.memory) ∧
  (∀ (mem : Memory) (t : Transfer) (a : DramAnswer), mem.attempt t a = (match t, a with
    | .read _ _, _ => mem
    | .write x ws, .ok => mem.writeWords x ws
    | .write x ws, .fault landed => mem.writeLanded x ws landed)) ∧
  (∀ (mem : Memory) (x b : Nat) (ws : List Word) (landed : List Bool), mem.wf →
    (mem.writeLanded x ws landed).read b = mem.read b ∨
      ∃ k, landed[k]? = some true ∧ b = x + 4 * k ∧ ws[k]? = some ((mem.writeLanded x ws landed).read b))

/-! ### The path -/

/-- A malformed transaction, read or write, whatever its region and the state of the part: ABORT and one MALFORMED report, and nothing
else happens. The first condition that holds gives the detail code. -/
def Obligations.MalformedTransaction : Prop :=
  ∀ (s f : State) (q : Requester) (a : Address) (data : List Word) (n length : Nat) (i : Instr) (code : Nat),
    f = s.caughtUp → f.held = none →
    (i ∈ writeRows q a data ∧ length = data.length ∨ i = .upstreamRead q a n ∧ length = n) →
    (if length = 0 ∨ 16 < length then some 1
      else if a.toNat % 4 ≠ 0 then some 2
      else if a.toNat / 64 ≠ (a.toNat + 4 * (length - 1)) / 64 then some 3 else none) = some code →
    exec i s = .next (State.settle
      { f.submit .malformed a.toNat (some q) code with answer := some .abort })

/-- A well-formed write that touches a protected part: ABORT and one PROTECT report with the code of the (first) refusing part, whatever
room there is, and nothing else happens. -/
def Obligations.ProtectedWriteRefused : Prop :=
  ∀ (s f : State) (q : Requester) (a : Address) (data : List Word) (i : Instr) (code : Nat),
    f = s.caughtUp → f.held = none → malformed a.toNat data.length = none → i ∈ writeRows q a data →
    (f.region a.toNat = .stack ∧ f.slotStateAt a.toNat ≠ .free ∧ code = 1 ∨
      f.region a.toNat = .scratch ∧ code = 2 ∨
      f.region a.toNat = .pilot ∧ code = 3 ∧
        (∃ p ∈ f.pilots, (p.state = .checking ∨ p.useCount ≠ 0) ∧ p.extent.meets ⟨a.toNat, 4 * data.length⟩ = true) ∨
      f.region a.toNat = .control ∧ ∃ k < data.length,
        (∀ j < k, f.controlRefuses (a.toNat + 4 * j - f.controlBase) = none) ∧
        (a.toNat + 4 * k - f.controlBase < 0x100 ∧ code = 4 ∧
            (f.commandSlot ((a.toNat + 4 * k - f.controlBase) / 32)).busy = true ∨
          (a.toNat + 4 * k - f.controlBase = 0x100 ∨
            0x400 ≤ a.toNat + 4 * k - f.controlBase ∧ a.toNat + 4 * k - f.controlBase < 0x800 ∨
            0x8000 ≤ a.toNat + 4 * k - f.controlBase) ∧ code = 5)) →
    exec i s = .next (State.settle { f.submit .protect a.toNat (some q) code with answer := some .abort })

/-- A write that is not refused but finds the Posted Write Buffer full, or no staging entry for the header it would open: RETRY, and
nothing else happens. -/
def Obligations.WriteWithoutRoomRetried : Prop :=
  ∀ (s f : State) (q : Requester) (a : Address) (data : List Word) (i : Instr),
    f = s.caughtUp → f.held = none → malformed a.toNat data.length = none →
    f.refusal a.toNat data.length = none → i ∈ writeRows q a data →
    ((f.region a.toNat ≠ .raw ∨ f.mode = .idle ∨ ∃ w, f.windows.raw = some w ∧ w.mode = .tap) ∧ 32 ≤ f.pwb.length ∨
      f.region a.toNat = .raw ∧ f.mode ≠ .idle ∧ 4 ≤ f.assembler.staging.length ∧
        ∃ w n, f.windows.raw = some w ∧
          f.assembler.headerVerdict (rawWriteAt f.geometry w.base q a.toNat data) = .pass n) →
    exec i s = .next (State.settle { f with answer := some .retry })

/-- A write that no block takes is buffered and accepted: outside every region, in a FREE stack slot, in the RAW window in IDLE, in the
Control Area apart from the command slots, the index words, the mirror and the ring, and in the PILOT window, where every READY unused
entry that it touches becomes FAULTED. -/
def Obligations.PlainWriteBuffered : Prop :=
  ∀ (s f : State) (q : Requester) (a : Address) (data : List Word) (i : Instr),
    f = s.caughtUp → f.held = none → malformed a.toNat data.length = none → i ∈ writeRows q a data →
    f.pwb.length < 32 →
    (f.region a.toNat = .outside ∨ f.region a.toNat = .stack ∧ f.slotStateAt a.toNat = .free ∨
      f.region a.toNat = .raw ∧ f.mode = .idle →
      exec i s = .next (State.settle { f with pwb := f.pwb ++ [⟨q, a.toNat, data⟩], answer := some .accept })) ∧
    (f.region a.toNat = .control →
      (∀ k < data.length, 0x104 ≤ a.toNat + 4 * k - f.controlBase ∧ a.toNat + 4 * k - f.controlBase < 0x400 ∧
          a.toNat + 4 * k - f.controlBase ≠ 0x140 ∨
        0x800 ≤ a.toNat + 4 * k - f.controlBase ∧ a.toNat + 4 * k - f.controlBase < 0x8000) →
      exec i s = .next (State.settle { f with pwb := f.pwb ++ [⟨q, a.toNat, data⟩], answer := some .accept })) ∧
    (f.region a.toNat = .pilot →
      (∀ p ∈ f.pilots, p.state = .checking ∨ p.useCount ≠ 0 → p.extent.meets ⟨a.toNat, 4 * data.length⟩ = false) →
      exec i s = .next (State.settle { f with
        pwb := f.pwb ++ [⟨q, a.toNat, data⟩]
        pilots := f.pilots.map (fun p =>
          if p.state = .ready ∧ p.useCount = 0 ∧ p.extent.meets ⟨a.toNat, 4 * data.length⟩ = true
          then { p with state := .faulted } else p)
        answer := some .accept }))

/-- An accepted write inside one command slot: its words replace those of the copy; when word 0 is among them, the command is posted
with the operands the copy then holds, the slot is busy, and its BUSY write waits to be handed. A write that reaches into the next slot
does the same for both, the lower slot first. -/
def Obligations.CommandSlotWrite : Prop :=
  (∀ (s f : State) (q : Requester) (a : Address) (data copy : List Word) (i : Instr) (j k : Nat) (c : CommandSlot),
      f = s.caughtUp → f.held = none → i ∈ writeRows q a data →
      j < 8 → 1 ≤ data.length → k + data.length ≤ 8 → a.toNat = f.controlBase + 32 * j + 4 * k →
      f.commands.slots.length = 8 → f.commands.slots[j]? = some c → c.copy.length = 8 → c.busy = false → f.pwb.length < 32 →
      copy = c.copy.take k ++ data ++ c.copy.drop (k + data.length) →
      exec i s = .next (State.settle { f with
        pwb := f.pwb ++ [⟨q, a.toNat, data⟩]
        commands := if k = 0 then
            { f.commands with
              slots := f.commands.slots.set j ⟨copy, true, none, false⟩
              queue := f.commands.queue ++ [⟨j, (copy.getD 0 0).extractLsb' 0 16, (copy.getD 0 0).extractLsb' 16 16,
                (copy.drop 1).take 6⟩]
              busyWaits := f.commands.busyWaits ++ [j] }
          else { f.commands with slots := f.commands.slots.set j { c with copy := copy } }
        answer := some .accept })) ∧
  (∀ (s f : State) (q : Requester) (a : Address) (data low high : List Word) (i : Instr) (j k : Nat) (c d : CommandSlot)
    (entry : Nat → List Word → QueueEntry),
    f = s.caughtUp → f.held = none → i ∈ writeRows q a data →
    j < 8 → j % 2 = 0 → k < 8 → 8 < k + data.length → k + data.length ≤ 16 → a.toNat = f.controlBase + 32 * j + 4 * k →
    f.commands.slots.length = 8 → f.commands.slots[j]? = some c → f.commands.slots[j + 1]? = some d →
    c.copy.length = 8 → d.copy.length = 8 → c.busy = false → d.busy = false → f.pwb.length < 32 →
    low = c.copy.take k ++ data.take (8 - k) → high = data.drop (8 - k) ++ d.copy.drop (k + data.length - 8) →
    (∀ x l, entry x l = ⟨x, (l.getD 0 0).extractLsb' 0 16, (l.getD 0 0).extractLsb' 16 16, (l.drop 1).take 6⟩) →
    exec i s = .next (State.settle { f with
      pwb := f.pwb ++ [⟨q, a.toNat, data⟩]
      commands := { f.commands with
        slots := (f.commands.slots.set j (if k = 0 then ⟨low, true, none, false⟩ else { c with copy := low })).set (j + 1)
          ⟨high, true, none, false⟩
        queue := f.commands.queue ++ (if k = 0 then [entry j low] else []) ++ [entry (j + 1) high]
        busyWaits := f.commands.busyWaits ++ (if k = 0 then [j] else []) ++ [j + 1] }
      answer := some .accept }))

/-- An accepted write into the RAW window that touches a header word. Refused: BAD_HEADER, PARTIAL or RANGE, or SCAN_REWIND, one report,
Scan Staging and the newest scan number as they were, and the samples of the write are strays. Admitted with no scan closed: the scan is
opened with the samples of the write that follow its header, its number is the newest, and numbers passed over are reported as SCAN_GAP.
Admitted in general: SCAN_GAP, a forced close of a FILLING scan of the slot, the scan opened, a forced close of the oldest of three
FILLING scans, then the samples and the release (State.takeWords, which SampleTaken expands). A forced close holes the channels not
received and submits SCAN_FORCED with their number. In TAP mode the write is buffered.
That the samples of a refused header are strays, where R10 says otherwise, is the model's (log 14). -/
def Obligations.HeaderAdmitted : Prop :=
  (∀ (s f : State) (q : Requester) (a : Address) (data : List Word) (i : Instr) (w : RawWindow) (slot index code subject : Nat)
    (kind : ReportKind) (pwb : List PwbEntry) (stray : Option StrayMark),
    f = s.caughtUp → f.held = none → i ∈ writeRows q a data → malformed a.toNat data.length = none →
    f.region a.toNat = .raw → f.mode ≠ .idle → f.windows.raw = some w →
    slot = (a.toNat - w.base) / f.geometry.stride → index = (a.toNat - w.base) % f.geometry.stride / 4 →
    (w.mode = .tap → f.pwb.length < 32) →
    pwb = (if w.mode = .tap then f.pwb ++ [⟨q, a.toNat, data⟩] else f.pwb) →
    ((index = 1 ∨ index = 0 ∧ data.length = 1) ∧ kind = .badHeader ∧ subject = a.toNat ∧ code = 1 ∨
      (index = 0 ∧ ∃ low high rest, data = low :: high :: rest ∧
        (2 ^ 16 ≤ high.toNat ∧ kind = .badHeader ∧ subject = a.toNat ∧ code = 2 ∨
          high.toNat < 2 ^ 16 ∧ subject = low.toNat + 2 ^ 32 * high.toNat ∧ kind = .scanRewind ∧ code = slot ∧
            ∃ x, f.assembler.newest = some x ∧ subject ≤ x))) →
    stray = (if (List.range data.length).any (fun k => decide (2 ≤ index + k ∧ index + k < f.geometry.c + 2)) = true
      then some (match f.assembler.stray with
        | none => ⟨a.toNat, q, 1⟩
        | some x => { x with count := min (x.count + 1) 65535 })
      else f.assembler.stray) →
    exec i s = .next (State.settle { f.submit kind subject (some q) code with
      pwb := pwb
      assembler := { f.assembler with stray := stray }
      answer := some .accept })) ∧
  (∀ (s f g : State) (q : Requester) (a : Address) (low high : Word) (vs : List Word) (i : Instr) (w : RawWindow) (slot n : Nat),
    f = s.caughtUp → f.held = none → i ∈ writeRows q a (low :: high :: vs) → vs.length ≤ 14 → vs.length < f.geometry.c →
    f.region a.toNat = .raw → f.mode ≠ .idle → f.windows.raw = some w → a.toNat % 64 = 0 →
    slot = (a.toNat - w.base) / f.geometry.stride → (a.toNat - w.base) % f.geometry.stride = 0 →
    high.toNat < 2 ^ 16 → n = low.toNat + 2 ^ 32 * high.toNat → (∀ x, f.assembler.newest = some x → x < n) →
    (∀ e ∈ f.assembler.staging, e.state = .complete ∧ e.released = true ∨ e.state = .filling ∧ e.slot ≠ slot) →
    f.assembler.fillingEntries.length ≤ 1 → f.assembler.staging.length < 4 → (w.mode = .tap → f.pwb.length < 32) →
    g = (match f.assembler.newest with
      | none => f
      | some x => if x + 1 < n then
          { f with reports := f.reports.submit (some n) .scanGap (x + 1) (some q) (min (n - x - 1) (2 ^ 32 - 1)) }
        else f) →
    exec i s = .next (State.settle { g with
      pwb := if w.mode = .tap then f.pwb ++ [⟨q, a.toNat, low :: high :: vs⟩] else f.pwb
      assembler := { f.assembler with
        staging := f.assembler.staging ++ [⟨n, slot, .filling, vs.zipIdx.map (fun p => (p.2, p.1.setWidth 24)), [], false⟩]
        newest := some n }
      answer := some .accept })) ∧
  (∀ (s f x y z o : State) (q : Requester) (a : Address) (low high : Word) (vs : List Word) (i : Instr) (w : RawWindow) (slot n : Nat),
    f = s.caughtUp → f.held = none → i ∈ writeRows q a (low :: high :: vs) → malformed a.toNat (vs.length + 2) = none →
    f.region a.toNat = .raw → f.mode ≠ .idle → f.windows.raw = some w →
    slot = (a.toNat - w.base) / f.geometry.stride → (a.toNat - w.base) % f.geometry.stride = 0 →
    high.toNat < 2 ^ 16 → n = low.toNat + 2 ^ 32 * high.toNat → (∀ x, f.assembler.newest = some x → x < n) →
    f.assembler.staging.length < 4 → (w.mode = .tap → f.pwb.length < 32) →
    x = { f with
      pwb := if w.mode = .tap then f.pwb ++ [⟨q, a.toNat, low :: high :: vs⟩] else f.pwb
      assembler := { f.assembler with newest := some n } } →
    y = (match f.assembler.newest with
      | none => x
      | some k => if k + 1 < n then x.submit .scanGap (k + 1) (some q) (min (n - k - 1) (2 ^ 32 - 1)) else x) →
    z = (match f.assembler.staging.find? (fun e => e.state == .filling && e.slot == slot) with
      | none => y
      | some e => y.forceClose e) →
    o = { z with assembler := { z.assembler with staging := z.assembler.staging ++ [⟨n, slot, .filling, [], [], false⟩] } } →
    exec i s = .next (State.settle { State.takeWords (match o.assembler.fillingEntries with
        | e :: _ :: _ :: _ => o.forceClose e
        | _ => o) ⟨q, a.toNat, slot, 0, low :: high :: vs⟩ with answer := some .accept })) ∧
  (∀ (s : State) (e : StagingEntry) (holed : List Nat),
    holed = (List.range s.geometry.c).filter (fun c => ∀ p ∈ e.samples, p.1 ≠ c) →
    s.forceClose e = State.submit { s with assembler := { s.assembler with staging := s.assembler.staging.map (fun x =>
      if x.scan = e.scan then { x with state := .complete, holed := holed } else x) } } .scanForced e.scan none holed.length)

/-- One accepted sample word, into a slot without a FILLING scan (a stray), into one that still misses channels after it, and into a scan
that it completes with every lower scan released: that scan and the COMPLETE ones after it, up to the first FILLING one, are released.
Their PROCESS items join the engine's list in order, the Stall Timer is reloaded, STALLED sweeps correlate again, a stray mark that is
set is reported as STRAY_SAMPLE and cleared, and then STREAM_RESUMED is submitted when a sweep was resumed. (A sample word is the low 24
bits.)
Any accepted write that touches no header word, of any number of words: its sample words are taken (State.takeWords). What taking the
sample words of a write does, in every state: the words of channels 0 to C-1, in address order and each against the entries left by the
one before it, go into the FILLING entries of the slot, which become COMPLETE with their last channel, or are strays; the stray mark is
updated once for the write; then, when a COMPLETE entry not yet released stands before every FILLING one, the release as above. A sample
for a channel received already replaces its value.
That the mark is updated before the release of the same write is the model's (log 30). -/
def Obligations.SampleTaken : Prop :=
  (∀ (s f : State) (q : Requester) (a : Address) (v : Word) (i : Instr) (w : RawWindow) (slot c : Nat) (pwb : List PwbEntry),
    f = s.caughtUp → f.held = none → i ∈ writeRows q a [v] →
    f.region a.toNat = .raw → f.mode ≠ .idle → f.windows.raw = some w → a.toNat % 4 = 0 →
    slot = (a.toNat - w.base) / f.geometry.stride → (a.toNat - w.base) % f.geometry.stride / 4 = c + 2 → c < f.geometry.c →
    (w.mode = .tap → f.pwb.length < 32) →
    pwb = (if w.mode = .tap then f.pwb ++ [⟨q, a.toNat, [v]⟩] else f.pwb) →
    ((∀ e ∈ f.assembler.staging, e.state = .filling → e.slot ≠ slot) →
      (∀ e ∈ f.assembler.staging, e.released = true ∨ e.state = .filling) →
      exec i s = .next (State.settle { f with
        pwb := pwb
        assembler := { f.assembler with stray := some (match f.assembler.stray with
          | none => ⟨a.toNat, q, 1⟩
          | some x => { x with count := min (x.count + 1) 65535 }) }
        answer := some .accept })) ∧
    (∀ (e : StagingEntry) (before after : List StagingEntry),
      f.assembler.staging = before ++ e :: after → e.state = .filling → e.slot = slot → e.released = false →
      (∀ x ∈ before, x.released = true ∧ x.state = .complete) → (∀ x ∈ after, x.state = .filling → x.slot ≠ slot) →
      (insertSample c (v.setWidth 24) e.samples).length ≠ f.geometry.c →
      exec i s = .next (State.settle { f with
        pwb := pwb
        assembler := { f.assembler with
          staging := before ++ { e with samples := insertSample c (v.setWidth 24) e.samples } :: after }
        answer := some .accept })) ∧
    (∀ (e : StagingEntry) (before ready after : List StagingEntry) (n : Nat) (x y z : State),
      f.assembler.staging = before ++ e :: (ready ++ after) → e.state = .filling → e.slot = slot → e.released = false →
      (∀ k ∈ before, k.released = true ∧ k.state = .complete) → (∀ k ∈ ready, k.released = false ∧ k.state = .complete) →
      (∀ k l, after = k :: l → k.state = .filling ∧ k.released = false) →
      (∀ k ∈ after, k.state = .filling → k.slot ≠ slot) →
      (insertSample c (v.setWidth 24) e.samples).length = f.geometry.c →
      n = (f.liveSweeps.filter (fun p => p.2.state == .stalled)).length →
      x = { f with
        pwb := pwb
        assembler := { f.assembler with
          staging := before ++ { e with samples := insertSample c (v.setWidth 24) e.samples, state := .complete, released := true } ::
            (ready.map (fun k => { k with released := true }) ++ after)
          stray := none }
        engine := { f.engine with list := f.engine.list ++ .process e.scan :: ready.map (fun k => .process k.scan) }
        sweeps := { f.sweeps with
          stallTimer := f.sweeps.stallTimer.map (fun _ => f.sweeps.stallPeriod)
          table := f.sweeps.table.map (Option.map (fun w => if w.state = .stalled then { w with state := .correlating } else w)) } } →
      y = (match f.assembler.stray with
        | none => x
        | some k => x.submit .straySample k.address (some k.requester) k.count) →
      z = (if n = 0 then y else y.submit .streamResumed 0 none n) →
      exec i s = .next (State.settle { z with answer := some .accept }))) ∧
  (∀ (s f : State) (q : Requester) (a : Address) (data : List Word) (i : Instr) (w : RawWindow) (slot index : Nat),
    f = s.caughtUp → f.held = none → i ∈ writeRows q a data → malformed a.toNat data.length = none →
    f.region a.toNat = .raw → f.mode ≠ .idle → f.windows.raw = some w →
    slot = (a.toNat - w.base) / f.geometry.stride → index = (a.toNat - w.base) % f.geometry.stride / 4 → 2 ≤ index →
    (w.mode = .tap → f.pwb.length < 32) →
    exec i s = .next (State.settle { State.takeWords
      { f with pwb := if w.mode = .tap then f.pwb ++ [⟨q, a.toNat, data⟩] else f.pwb } ⟨q, a.toNat, slot, index, data⟩ with
      answer := some .accept })) ∧
  (∀ (s x y u v : State) (w : RawWrite) (c n : Nat) (taken : List (Nat × RawSample)) (staging front after : List StagingEntry)
    (stray : Bool), c = s.geometry.c →
    taken = w.data.zipIdx.filterMap (fun p =>
      if 2 ≤ w.index + p.2 ∧ w.index + p.2 < c + 2 then some (w.index + p.2 - 2, p.1.setWidth 24) else none) →
    (staging, stray) = taken.foldl (fun (r : List StagingEntry × Bool) p =>
      if ∃ e ∈ r.1, e.state = .filling ∧ e.slot = w.slot then
        (r.1.map (fun e => if e.state = .filling ∧ e.slot = w.slot then
          { e with
            samples := insertSample p.1 p.2 e.samples
            state := if (insertSample p.1 p.2 e.samples).length = c then .complete else .filling } else e), r.2)
      else (r.1, true)) (s.assembler.staging, false) →
    x = { s with assembler := { s.assembler with
      staging := staging
      stray := if stray = true then some (match s.assembler.stray with
          | none => ⟨w.address, w.requester, 1⟩
          | some k => { k with count := min (k.count + 1) 65535 })
        else s.assembler.stray } } →
    staging = front ++ after → (∀ k ∈ front, k.released = true ∨ k.state = .complete) →
    (∀ k l, after = k :: l → k.released = false ∧ k.state = .filling) →
    n = (s.liveSweeps.filter (fun p => p.2.state == .stalled)).length →
    y = { x with
      assembler := { x.assembler with staging := front.map (fun k => { k with released := true }) ++ after, stray := none }
      engine := { s.engine with
        list := s.engine.list ++ (front.filter (fun k => !k.released)).map (fun k => .process k.scan) }
      sweeps := { s.sweeps with
        stallTimer := s.sweeps.stallTimer.map (fun _ => s.sweeps.stallPeriod)
        table := s.sweeps.table.map (Option.map (fun w => if w.state = .stalled then { w with state := .correlating } else w)) } } →
    u = (match x.assembler.stray with
      | none => y
      | some k => y.submit .straySample k.address (some k.requester) k.count) →
    v = (if n = 0 then u else u.submit .streamResumed 0 none n) →
    ((∀ k ∈ front, k.released = true) → s.takeWords w = x) ∧ ((∃ k ∈ front, k.released = false) → s.takeWords w = v)) ∧
  (∀ (c : Nat) (v : RawSample) (l : List (Nat × RawSample)),
    (insertSample c v l).lookup c = some v ∧ (∀ d, d ≠ c → (insertSample c v l).lookup d = l.lookup d) ∧
    (l.Pairwise (fun p q => p.1 < q.1) → (insertSample c v l).Pairwise (fun p q => p.1 < q.1) ∧
      (insertSample c v l).length = l.length + (if c ∈ l.map Prod.fst then 0 else 1)))

/-- An accepted write that includes the consumer index word, alone or with words after it (it is the first word of its 64-byte block), is
buffered; a value of the span from the consumer index up to the producer index
becomes the consumer index, with a flush when it moves it; every other value is ignored. -/
def Obligations.ConsumerIndexTaken : Prop :=
  ∀ (s f : State) (q : Requester) (a : Address) (v : Word) (vs : List Word) (i : Instr),
    f = s.caughtUp → f.held = none → i ∈ writeRows q a (v :: vs) → vs.length ≤ 15 → a.toNat = f.controlBase + 0x140 →
    f.pwb.length < 32 →
    (v.toNat < f.reports.size ∧ v.toNat ≠ f.reports.consumer ∧
      (v.toNat + f.reports.size - f.reports.consumer) % f.reports.size ≤
        (f.reports.producer + f.reports.size - f.reports.consumer) % f.reports.size →
      exec i s = .next (State.settle { f with
        pwb := f.pwb ++ [⟨q, a.toNat, v :: vs⟩]
        reports := Reports.flush { f.reports with consumer := v.toNat } f.assembler.newest
        answer := some .accept })) ∧
    (f.reports.size ≤ v.toNat ∨ v.toNat = f.reports.consumer ∨
      (f.reports.producer + f.reports.size - f.reports.consumer) % f.reports.size <
        (v.toNat + f.reports.size - f.reports.consumer) % f.reports.size →
      exec i s = .next (State.settle { f with pwb := f.pwb ++ [⟨q, a.toNat, v :: vs⟩], answer := some .accept }))

/-- A pass-through read (anywhere but in a stack slot that is not FREE, or in a SEALED slot with no deferred entry for it) holds the port
without an answer, and is issued at once when the buffer is empty; otherwise PASS_THROUGH_READ_ISSUE issues it once it is. -/
def Obligations.PassThroughReadHolds : Prop :=
  (∀ (s f : State) (q : Requester) (a : Address) (n : Nat),
    f = s.caughtUp → f.held = none → malformed a.toNat n = none →
    (f.region a.toNat ≠ .stack ∨ f.slotStateAt a.toNat = .free ∨
      f.slotStateAt a.toNat = .sealed ∧ f.drqFind q a.toNat n = none) →
    (f.pwb = [] → exec (.upstreamRead q a n) s = .next (State.settle { f with
      held := some ⟨q, a.toNat, n, true⟩
      answer := none
      port := f.port.presentForward .passThroughRead (.read a.toNat n) })) ∧
    (f.pwb ≠ [] → exec (.upstreamRead q a n) s = .next (State.settle { f with
      held := some ⟨q, a.toNat, n, false⟩, answer := none }))) ∧
  (∀ (s m : State) (h : HeldRead), m = s.caughtUp → m.pwb = [] → m.held = some h → h.issued = false →
    exec .passThroughReadIssue s = .next (State.settle { m with
      held := some { h with issued := true }
      port := m.port.presentForward .passThroughRead (.read h.address h.length) }))

/-- A read of a stack slot that is OPEN, COMPLETE or SEALING is noted: DEFER from the entry it repeats or from the lowest free entry,
RETRY when there is neither. A read of a SEALED slot is answered from the entry it repeats: DATA, ABORT or DEFER. -/
def Obligations.StackSlotRead : Prop :=
  ∀ (s f : State) (q : Requester) (a : Address) (n slot k : Nat) (e : DrqEntry),
    f = s.caughtUp → f.held = none → malformed a.toNat n = none →
    f.region a.toNat = .stack → f.stackSlotAt a.toNat = some slot →
    ((f.slotEntry slot).state = .opened ∨ (f.slotEntry slot).state = .complete ∨ (f.slotEntry slot).state = .sealing →
      (f.drqFind q a.toNat n = some (k, e) →
        exec (.upstreamRead q a n) s = .next (State.settle { f with
          drq := { f.drq with entries := f.drq.entries.set k (some { e with countdown := f.drq.period }) }
          answer := some .defer })) ∧
      (f.drqFind q a.toNat n = none → f.drq.entries[k]? = some none → (∀ j < k, f.drq.entries[j]? ≠ some none) →
        exec (.upstreamRead q a n) s = .next (State.settle { f with
          drq := { f.drq with entries := f.drq.entries.set k (some ⟨q, a.toNat, n, slot, .waiting, [], f.drq.period⟩) }
          answer := some .defer })) ∧
      (f.drqFind q a.toNat n = none → none ∉ f.drq.entries →
        exec (.upstreamRead q a n) s = .next (State.settle { f with answer := some .retry }))) ∧
    ((f.slotEntry slot).state = .sealed → f.drqFind q a.toNat n = some (k, e) →
      (e.state = .ready ∨ e.state = .faulted →
        exec (.upstreamRead q a n) s = .next (State.settle { f with
          drq := { f.drq with entries := f.drq.entries.set k none, fetchOrder := f.drq.fetchOrder.filter (· != k) }
          port := { f.port with fetchFor := if f.port.fetchFor = some k then none else f.port.fetchFor }
          answer := some (if e.state = .ready then .data e.buffer else .abort) })) ∧
      (e.state = .fetching →
        exec (.upstreamRead q a n) s = .next (State.settle { f with
          drq := { f.drq with entries := f.drq.entries.set k (some { e with countdown := f.drq.period }) }
          answer := some .defer })))

/-- PASS_THROUGH_READ_ANSWER releases the port: FAULT gives ABORT; OK gives DATA with the words of memory, or RETRY when the words lie in
a stack slot that is OPEN, COMPLETE or SEALING at the answer.
PWB_DELIVERY_ANSWER: the entry leaves the buffer. OK: its words are in memory. FAULT: the words the DRAM says are in memory are, and
one FORWARD_FAULT is submitted. A pilot check that waits for the drain has one write less to wait for.
The look at the address uses the windows at the answer (log 22), and the slot's state at the answer alone (log 39). The words in memory
after a FAULT are an operand (log 11). -/
def Obligations.ForwardingAnswers : Prop :=
  (∀ (s m : State) (o : Outstanding) (h : HeldRead) (a n : Nat) (x : DramAnswer),
    m = s.caughtUp → m.port.attempt = some .forwarding → m.port.forward = some (.passThroughRead, o) →
    o.transfer = .read a n → m.held = some h →
    exec (.passThroughReadAnswer x) s = .next (State.settle { m with
      port := { m.port with forward := none, attempt := none }
      held := none
      answer := some (if x ≠ .ok then .abort
        else if m.slotStateAt h.address = .free ∨ m.slotStateAt h.address = .sealed then .data (m.memory.readWords a n)
        else .retry) })) ∧
  (∀ (s m : State) (o : Outstanding) (a : Nat) (data : List Word) (w : PwbEntry) (rest : List PwbEntry) (landed : List Bool),
    m = s.caughtUp → m.port.attempt = some .forwarding → m.port.forward = some (.delivery, o) →
    o.transfer = .write a data → m.pwb = w :: rest →
    exec (.pwbDeliveryAnswer .ok) s = .next (State.settle { m with
      port := { m.port with forward := none, attempt := none }
      memory := m.memory.writeWords a data
      pwb := rest
      commands := { m.commands with progress := m.commands.progress.map CommandProgress.drained } }) ∧
    exec (.pwbDeliveryAnswer (.fault landed)) s = .next (State.settle (State.submit { m with
      port := { m.port with forward := none, attempt := none }
      memory := m.memory.writeLanded a data landed
      pwb := rest
      commands := { m.commands with progress := m.commands.progress.map CommandProgress.drained } }
      .forwardFault w.address (some w.requester) w.data.length)))

/-! ### The Correlation Engine -/

/-- What a client that has no transfer outstanding presents is outstanding with no BUSY met, and the slice count starts again when the
part side begins to wait while the forwarding side holds the port.
What the clients present at the boundary of an event when they have nothing outstanding: the Posted Write Buffer its first write, the
DRQ fetch the read of the first entry of the fetch order, and the Report Unit's client a producer write that is due, else the head of
its hand order, which then leaves it, a record only when no mirror mark is stale, else the lowest stale mirror record. The eight words of
a ring record and of a mirror record.
A record is presented only while no mirror mark is stale (log 20). A slot write or a producer write handed soon after a line reset goes
ahead of the mirror records still stale: the model's (log 35). -/
def Obligations.TransfersPresented : Prop :=
  (∀ (p : Port) (c : Client) (t : Transfer), p.client c = ⟨none, none⟩ →
    p.present c t = { p.setClient c ⟨some ⟨t, 0, false⟩, none⟩ with
      sliceCount := if p.holder = .forwarding ∧ p.waiting .part = false then 0 else p.sliceCount }) ∧
  (∀ (p : Port) (source : ForwardSource) (t : Transfer),
    p.presentForward source t = { p with
      forward := some (source, ⟨t, 0, false⟩)
      sliceCount := if p.holder = .part ∧ p.waiting .forwarding = false then 0 else p.sliceCount }) ∧
  (∀ (s : State) (w : PwbEntry) (rest : List PwbEntry), s.port.forward = none → s.pwb = w :: rest →
    s.settle.port.forward = some (.delivery, ⟨.write w.address w.data, 0, false⟩)) ∧
  (∀ (s : State) (i : Nat) (e : DrqEntry) (rest : List Nat), s.port.drqFetch = ⟨none, none⟩ → s.drq.fetchOrder = i :: rest →
    s.drq.entries[i]? = some (some e) →
    s.settle.port.drqFetch = ⟨some ⟨.read e.address e.length, 0, false⟩, none⟩ ∧ s.settle.port.fetchFor = some i) ∧
  (∀ (s : State) (w : ReportWrite) (t : Transfer), s.port.reportUnit = ⟨none, none⟩ →
    (s.reports.producerDue = true ∧ w = .producer false ∧ t = .write (s.controlBase + 0x100) [word s.reports.producer] ∨
      s.reports.producerDue = false ∧
        ((∃ x rest, s.reports.handOrder = .record x :: rest ∧ true ∉ s.reports.stale ∧ w = .record x s.reports.producer ∧
            t = .write (s.controlBase + 0x8000 + 32 * s.reports.producer) x.words) ∨
          (∃ rest, s.reports.handOrder = .producerReset :: rest ∧ w = .producer true ∧ t = .write (s.controlBase + 0x100) [0]) ∨
          (∃ x rest, s.reports.handOrder = .slotWrite x :: rest ∧ w = .slotWrite x ∧
            t = .write (s.controlBase + 32 * x.slot + (if x.role = .results then 4 else 28)) x.words) ∨
          (∃ i, (s.reports.handOrder = [] ∨ ∃ x rest, s.reports.handOrder = .record x :: rest) ∧
            s.reports.stale[i]? = some true ∧ (∀ j < i, s.reports.stale[j]? = some false) ∧ w = .mirror i ∧
            t = .write (s.controlBase + 0x400 + 32 * i) (s.slotEntry i).mirrorWords))) →
    s.settle.port.reportUnit = ⟨some ⟨t, 0, false⟩, none⟩ ∧
      s.settle.reports = { s.reports with
        out := some ⟨w, false⟩
        producerDue := false
        handOrder := (match w with
          | .record _ _ => s.reports.handOrder.tail
          | .producer reset => if reset = true then s.reports.handOrder.tail else s.reports.handOrder
          | .slotWrite _ => s.reports.handOrder.tail
          | .mirror _ => s.reports.handOrder)
        stale := (match w with
          | .mirror i => s.reports.stale.set i false
          | _ => s.reports.stale) }) ∧
  (∀ r : Record, r.words =
    [word (r.kind.code + (if r.coalesced = true then 2 ^ 8 else 0) + (match r.requester with
        | none => 0
        | some q => 2 ^ 9 + 2 ^ 16 * q.toNat)),
      word r.subject, word (r.subject / 2 ^ 32), word r.detail] ++
    (match r.newest with
      | none => [0, 0x80000000]
      | some n => [word n, word (n / 2 ^ 32)]) ++ [0, 0]) ∧
  [ReportKind.scanForced, .scanGap, .scanRewind, .badHeader, .straySample, .sweepEnded, .streamStalled, .streamResumed, .stackSealed,
    .stackDiscarded, .channelSuspect, .channelMuted, .channelClear, .protect, .malformed, .forwardFault, .partFault, .readDiscarded,
    .modeChanged, .engineResetDone].map ReportKind.code = List.range' 1 20 ∧
  (∀ d : DirEntry, d.mirrorWords =
    [word (d.state.code + (if d.damaged = true then 2 ^ 8 else 0) + (if d.headerFault = true then 2 ^ 9 else 0)),
      word d.sourcePoint, word (d.foldTarget + 2 ^ 8 * d.notices + 2 ^ 16 * d.contributors.length), word d.lags,
      word (d.first + 2 ^ 16 * d.last), word (d.gapFirst + 2 ^ 16 * d.gapLast), word d.editLimit, word (d.editLimit / 2 ^ 32)]) ∧
  [SlotState.free, .opened, .complete, .sealing, .sealed].map SlotState.code = [0, 1, 2, 3, 4]

/-- The next piece of a CLEAR is the longest run within one 64-byte block, from the first word not yet passed, of the words of lags 0 to
k-1 of channels 0 to c-1. -/
def Obligations.ClearPieceIsMaximalRun : Prop :=
  ∀ (c kMax k cursor : Nat), 1 ≤ kMax →
    (∀ start n, nextTablePiece c kMax k cursor = some (start, n) →
      cursor ≤ start ∧ (∀ x, cursor ≤ x → x < start → ¬ (x / (2 * kMax) < c ∧ x % (2 * kMax) < 2 * k)) ∧
      1 ≤ n ∧ start % 16 + n ≤ 16 ∧
      (∀ i < n, (start + i) / (2 * kMax) < c ∧ (start + i) % (2 * kMax) < 2 * k) ∧
      (start % 16 + n = 16 ∨ ¬ ((start + n) / (2 * kMax) < c ∧ (start + n) % (2 * kMax) < 2 * k))) ∧
    (nextTablePiece c kMax k cursor = none → ∀ x, cursor ≤ x → ¬ (x / (2 * kMax) < c ∧ x % (2 * kMax) < 2 * k))

/-- CLEAR_SWEEP and CLEAR_SLOT take their item and write zeros to the first piece of the sweep's area, or of the slot's sums; each answer OK
brings the next piece, or the end of the item. After the accumulators a CAPTURED pilot's ceil(L/2) words are zeroed, in pieces within
64-byte blocks. -/
def Obligations.ClearsInPieces : Prop :=
  (∀ (s m : State) (e start n : Nat) (w : Sweep) (rest : List EngineItem), m = s.caughtUp →
    m.engine = ⟨.clear e :: rest, none⟩ → m.sweep? e = some w → m.sweepClearPiece w 0 = some (start, n) →
    exec .clearSweep s = .next (State.settle (State.present
      { m with engine := ⟨rest, some ⟨e, w.tag, false, .clear (start + n)⟩⟩ } .engine
      (.write (m.areaBase e + 4 * start) (List.replicate n 0))))) ∧
  (∀ (s m x : State) (e tag cursor : Nat) (w : Sweep) (o : Outstanding), m = s.caughtUp → m.awaits .engine o →
    x = m.answeredFor .engine o .ok → m.engine.work = some ⟨e, tag, false, .clear cursor⟩ → m.sweep? e = some w →
    (m.sweepClearPiece w cursor = none →
      exec (.engineTransferAnswer .ok) s = .next (State.settle { x with engine := { m.engine with work := none } })) ∧
    (∀ start n, m.sweepClearPiece w cursor = some (start, n) →
      exec (.engineTransferAnswer .ok) s = .next (State.settle (State.present
        { x with engine := { m.engine with work := some ⟨e, w.tag, false, .clear (start + n)⟩ } } .engine
        (.write (m.areaBase e + 4 * start) (List.replicate n 0)))))) ∧
  (∀ (s : State) (w : Sweep) (cursor : Nat),
    (∀ piece, nextTablePiece s.geometry.c s.geometry.kMax w.lags cursor = some piece → s.sweepClearPiece w cursor = some piece) ∧
    (nextTablePiece s.geometry.c s.geometry.kMax w.lags cursor = none →
      (∀ id, w.pilot = .stored id → s.sweepClearPiece w cursor = none) ∧
      (∀ aux first start, w.pilot = .captured aux → first = s.geometry.tableSize / 4 → start = max cursor first →
        (first + (w.length + 1) / 2 ≤ start → s.sweepClearPiece w cursor = none) ∧
        (start < first + (w.length + 1) / 2 →
          s.sweepClearPiece w cursor = some (start, min (first + (w.length + 1) / 2 - start) (16 - start % 16)))))) ∧
  (∀ (s m : State) (i start n : Nat) (rest : List StackItem), m = s.caughtUp → m.stackUnit = ⟨.clear i :: rest, none⟩ →
    nextTablePiece m.geometry.c m.geometry.kMax (m.slotEntry i).lags 0 = some (start, n) →
    exec .clearSlot s = .next (State.settle (State.present
      { m with stackUnit := ⟨rest, some ⟨.clear i (start + n), false⟩⟩ } .stackUnit
      (.write (m.sumsBase i + 4 * start) (List.replicate n 0))))) ∧
  (∀ (s m x : State) (i cursor : Nat) (faulted : Bool) (o : Outstanding), m = s.caughtUp → m.awaits .stackUnit o →
    x = m.answeredFor .stackUnit o .ok → m.stackUnit.work = some ⟨.clear i cursor, faulted⟩ →
    (nextTablePiece m.geometry.c m.geometry.kMax (m.slotEntry i).lags cursor = none →
      exec (.stackUnitTransferAnswer .ok) s = .next (State.settle { x with stackUnit := { m.stackUnit with work := none } })) ∧
    (∀ start n, nextTablePiece m.geometry.c m.geometry.kMax (m.slotEntry i).lags cursor = some (start, n) →
      exec (.stackUnitTransferAnswer .ok) s = .next (State.settle (State.present
        { x with stackUnit := { m.stackUnit with work := some ⟨.clear i (start + n), faulted⟩ } } .stackUnit
        (.write (m.sumsBase i + 4 * start) (List.replicate n 0))))))

/-- PROCESS_SCAN that reaches no sweep frees the scan's staging entry; else it goes through the sweeps in increasing entry index from the
first that it reaches (State.serveFrom). A sweep that it does not reach is passed over; after the last one the scan's entry is freed.
A sweep that it reaches is served, in every state of the item: when scans are missing it is marked gapped, and a NOTICED sweep starts
correlating with S0 fixed. A CAPTURED sweep within its first L scans then has its aux sample (`v`, 0 when holed) captured; else the pilot
samples of the scan are read, when an active channel is not holed; with none its active channels are marked holed, the sweep has been
served, and the item goes on with the entries after it. A scan beyond the window's end adds nothing: the sweep leaves, STACKED or GAPPED,
and the item goes on with the entries after it.
That the held sample is cleared at a gap is the model's (log 15). That a scan beyond the end leaves the last scan processed as it was is
the model's (log 16). -/
def Obligations.ProcessScanBegins : Prop :=
  (∀ (s m : State) (t : Nat) (rest : List EngineItem), m = s.caughtUp → m.engine = ⟨.process t :: rest, none⟩ →
    (∀ p ∈ m.liveSweeps, p.2.state = .noticed ∨ p.2.state = .correlating ∨ p.2.state = .stalled → t < p.2.start) →
    exec .processScan s = .next (State.settle { m with
      engine := ⟨rest, none⟩
      assembler := { m.assembler with
        staging := m.assembler.staging.filter (fun e => !(e.released && e.scan == t)) } })) ∧
  (∀ (s m : State) (t e : Nat) (before entries : List Nat) (rest : List EngineItem), m = s.caughtUp →
    m.engine = ⟨.process t :: rest, none⟩ → List.range 24 = before ++ e :: entries →
    (∀ p ∈ m.liveSweeps, p.1 < e → p.2.state = .noticed ∨ p.2.state = .correlating ∨ p.2.state = .stalled → t < p.2.start) →
    exec .processScan s = .next (State.settle (State.serveFrom t (e :: entries) { m with engine := ⟨rest, none⟩ }))) ∧
  (∀ (m : State) (t : Nat), State.serveFrom t [] m = { m with
    engine := { m.engine with work := none }
    assembler := { m.assembler with staging := m.assembler.staging.filter (fun e => !(e.released && e.scan == t)) } }) ∧
  (∀ (m : State) (t e : Nat) (entries : List Nat),
    (∀ w, m.sweeps.table[e]? = some (some w) → w.state = .noticed ∨ w.state = .correlating ∨ w.state = .stalled → t < w.start) →
    State.serveFrom t (e :: entries) m = State.serveFrom t entries m) ∧
  (∀ (m x : State) (t d e : Nat) (w g u : Sweep) (set entries : List Nat) (scan : StagingEntry),
    m.sweeps.table[e]? = some (some w) → w.state = .noticed ∨ w.state = .correlating ∨ w.state = .stalled →
    w.start ≤ t → t ≤ w.start + w.length + w.lags - 2 → d = t - w.start →
    m.assembler.staging.find? (fun y => y.released && y.scan == t) = some scan →
    g = (if (w.state = .noticed ∧ w.start < t) ∨ (w.state ≠ .noticed ∧ ∃ n, w.lastScan = some n ∧ n + 1 < t)
      then { w with gapped := true, heldSample := 0 } else w) →
    set = (List.range (w.last + 1)).filter (fun c => w.first ≤ c && !(w.gapFirst ≤ c && c ≤ w.gapLast) &&
      ((m.channels.getD c ⟨0, .good⟩).condition != .muted)) →
    u = (if w.state = .noticed then { g with state := .correlating, startingSet := some set, activeSet := some set } else g) →
    x = { m with sweeps := { m.sweeps with table := m.sweeps.table.set e (some u) } } →
    (∀ (aux : Nat) (v : PilotSample), w.pilot = .captured aux → d < w.length →
      v = (if aux ∈ scan.holed then 0 else (((scan.samples.lookup aux).getD 0).sshiftRight 8).setWidth 16) →
      State.serveFrom t (e :: entries) m = State.present
        { m with
          sweeps := { m.sweeps with table := m.sweeps.table.set e (some { u with heldSample := if d % 2 = 0 then v else 0 }) }
          engine := { m.engine with work := some ⟨e, w.tag, false, .process t .capture⟩ } } .engine
        (.write (m.areaBase e + m.geometry.tableSize + 4 * (d / 2)) [
          if d % 2 = 0 then (0 : PilotSample) ++ v else v ++ u.heldSample])) ∧
    (∀ (base first a n : Nat), (∀ aux, w.pilot = .captured aux → w.length ≤ d) →
      (∃ c ∈ u.activeSet.getD [], c ∉ scan.holed) →
      base = (match w.pilot with
        | .stored id => (m.pilotEntry id).address
        | .captured _ => m.areaBase e + m.geometry.tableSize) →
      first = (d + 1 - w.lags) / 2 → a = base + 4 * first →
      n = min (min (w.length - 1) d / 2 + 1 - first) (16 - a / 4 % 16) →
      State.serveFrom t (e :: entries) m = State.present
        { x with engine := { m.engine with work := some ⟨e, w.tag, false, .process t (.pilot (2 * first) (first + n) [])⟩ } } .engine
        (.read a n)) ∧
    (∀ (v : Sweep) (y : State), (∀ aux, w.pilot = .captured aux → w.length ≤ d) →
      (∀ c ∈ u.activeSet.getD [], c ∈ scan.holed) →
      v = { u with holedSet := insertChannels (u.activeSet.getD []) u.holedSet, lastScan := some t } →
      y = (if t = w.start + w.length + w.lags - 2
        then State.leaveCorrelation { x with sweeps := { m.sweeps with table := m.sweeps.table.set e (some v) } } e
          (if u.gapped = true then .gapped else .stacked)
        else { x with sweeps := { m.sweeps with table := m.sweeps.table.set e (some v) } }) →
      State.serveFrom t (e :: entries) m = State.serveFrom t entries y)) ∧
  (∀ (m x : State) (t e : Nat) (w u : Sweep) (set entries : List Nat), m.sweeps.table[e]? = some (some w) →
    w.state = .noticed ∨ w.state = .correlating ∨ w.state = .stalled →
    w.start ≤ t → w.start + w.length + w.lags - 2 < t →
    set = (List.range (w.last + 1)).filter (fun c => w.first ≤ c && !(w.gapFirst ≤ c && c ≤ w.gapLast) &&
      ((m.channels.getD c ⟨0, .good⟩).condition != .muted)) →
    u = (if w.state = .noticed then
        { w with
          startingSet := some set
          activeSet := some set
          gapped := if w.start < t then true else w.gapped
          heldSample := if w.start < t then 0 else w.heldSample }
      else if ∃ n, w.lastScan = some n ∧ n + 1 < t then { w with gapped := true, heldSample := 0 } else w) →
    x = State.leaveCorrelation { m with sweeps := { m.sweeps with table := m.sweeps.table.set e (some u) } } e
      (if u.gapped = true then .gapped else .stacked) →
    State.serveFrom t (e :: entries) m = State.serveFrom t entries x)

/-- ENGINE_TRANSFER_ANSWER OK of an accumulator read, for a channel that no mute has taken: the piece is written back with p[d-k] times
the raw sample added to the accumulator of each lag k, formed exactly and kept in 64 bits.
The answers that carry a sweep through a scan: a capture write, then the pilot reads, then the pieces of each channel, and the channels
in order. A holed channel is marked and passed, and one that a mute has taken is left. With no channel left that is not holed (after the
last one, at a capture write, or at the last pilot read) the sweep's last scan is set, at the scan of the window's end the sweep leaves,
STACKED or GAPPED, and the item goes on with the sweeps after it (State.serveFrom, which ProcessScanBegins expands).
That a sum beyond 64 bits would wrap is the model's (log 28). That a mute stops a channel between two pieces is the model's (log 17).
That the remaining pilot reads are made whatever a mute has taken is the model's (log 34). -/
def Obligations.AccumulationGoesOn : Prop :=
  (∀ (s m : State) (o : Outstanding) (t d e tag first channel lag n a k : Nat) (pilot : List PilotSample) (w : Sweep)
    (r : RawSample) (read wrote : List Accumulator) (scan : StagingEntry), m = s.caughtUp → m.awaits .engine o →
    m.engine.work = some ⟨e, tag, false, .process t (.accumulateRead first pilot channel lag n)⟩ →
    m.sweep? e = some w → channel ∈ w.activeSet.getD [] → o.transfer = .read a k → d = t - w.start →
    m.assembler.staging.find? (fun y => y.released && y.scan == t) = some scan → r = (scan.samples.lookup channel).getD 0 →
    read = wordsAccumulators (m.memory.readWords a k) → wrote.length = read.length →
    (∀ i (h : i < read.length), wrote[i]? = some (BitVec.ofInt 64
      ((read[i]'h).toInt + (pilot.getD (d - (lag + i) - first) 0).toInt * r.toInt))) →
    exec (.engineTransferAnswer .ok) s = .next (State.settle (State.present
      { m.answeredFor .engine o .ok with engine := { m.engine with
        work := some ⟨e, w.tag, false, .process t (.accumulateWrite first pilot channel lag n)⟩ } } .engine
      (.write (m.areaBase e + 8 * (channel * m.geometry.kMax + lag)) (accumulatorsWords wrote))))) ∧
  (∀ values : List Accumulator, wordsAccumulators (accumulatorsWords values) = values) ∧
  (∀ (s m x : State) (o : Outstanding) (t d e tag : Nat) (w : Sweep) (scan : StagingEntry), m = s.caughtUp → m.awaits .engine o →
    x = m.answeredFor .engine o .ok → m.sweep? e = some w → d = t - w.start →
    m.assembler.staging.find? (fun y => y.released && y.scan == t) = some scan →
    (∀ (first n : Nat), m.engine.work = some ⟨e, tag, false, .process t .capture⟩ →
      (∃ c ∈ w.activeSet.getD [], c ∉ scan.holed) → first = (d + 1 - w.lags) / 2 →
      n = min (min (w.length - 1) d / 2 + 1 - first) (16 - (m.pilotBase e w + 4 * first) / 4 % 16) →
      exec (.engineTransferAnswer .ok) s = .next (State.settle (State.present
        { x with engine := { m.engine with work := some ⟨e, w.tag, false, .process t (.pilot (2 * first) (first + n) [])⟩ } }
        .engine (.read (m.pilotBase e w + 4 * first) n)))) ∧
    (∀ (first next n : Nat) (got : List PilotSample),
      m.engine.work = some ⟨e, tag, false, .process t (.pilot first next got)⟩ → next ≤ min (w.length - 1) d / 2 →
      n = min (min (w.length - 1) d / 2 + 1 - next) (16 - (m.pilotBase e w + 4 * next) / 4 % 16) →
      exec (.engineTransferAnswer .ok) s = .next (State.settle (State.present
        { x with engine := { m.engine with work := some ⟨e, w.tag, false, .process t (.pilot first (next + n)
          (got ++ (m.memory.answerWords o.transfer .ok).flatMap wordSamples))⟩ } } .engine
        (.read (m.pilotBase e w + 4 * next) n)))) ∧
    (∀ (first next channel lag n : Nat) (got : List PilotSample) (holed after : List Nat),
      m.engine.work = some ⟨e, tag, false, .process t (.pilot first next got)⟩ → min (w.length - 1) d / 2 < next →
      w.activeSet = some (holed ++ channel :: after) → (∀ c ∈ holed, c ∈ scan.holed) → channel ∉ scan.holed →
      lag = d + 1 - w.length → n = min (min (w.lags - 1) d + 1 - lag) (8 - (channel * m.geometry.kMax + lag) % 8) →
      exec (.engineTransferAnswer .ok) s = .next (State.settle (State.present
        { x with
          sweeps := { m.sweeps with table := m.sweeps.table.set e (some { w with holedSet := insertChannels holed w.holedSet }) }
          engine := { m.engine with work := some ⟨e, w.tag, false, .process t (.accumulateRead first
            (got ++ (m.memory.answerWords o.transfer .ok).flatMap wordSamples) channel lag n)⟩ } } .engine
        (.read (m.areaBase e + 8 * (channel * m.geometry.kMax + lag)) (2 * n))))) ∧
    (∀ (first channel lag n k : Nat) (pilot : List PilotSample),
      m.engine.work = some ⟨e, tag, false, .process t (.accumulateWrite first pilot channel lag n)⟩ →
      lag + n ≤ min (w.lags - 1) d → channel ∈ w.activeSet.getD [] →
        k = min (min (w.lags - 1) d + 1 - (lag + n)) (8 - (channel * m.geometry.kMax + (lag + n)) % 8) →
        exec (.engineTransferAnswer .ok) s = .next (State.settle (State.present
          { x with engine := { m.engine with
            work := some ⟨e, w.tag, false, .process t (.accumulateRead first pilot channel (lag + n) k)⟩ } } .engine
          (.read (m.areaBase e + 8 * (channel * m.geometry.kMax + (lag + n))) (2 * k))))) ∧
    (∀ (first channel lag n next low k : Nat) (pilot : List PilotSample) (phase : ProcessPhase) (holed after : List Nat),
      m.engine.work = some ⟨e, tag, false, .process t phase⟩ →
      (phase = .accumulateWrite first pilot channel lag n ∧ (min (w.lags - 1) d < lag + n ∨ channel ∉ w.activeSet.getD []) ∨
        phase = .accumulateRead first pilot channel lag n ∧ channel ∉ w.activeSet.getD []) →
      (w.activeSet.getD []).filter (fun c => channel < c) = holed ++ next :: after → (∀ c ∈ holed, c ∈ scan.holed) →
      next ∉ scan.holed → low = d + 1 - w.length →
      k = min (min (w.lags - 1) d + 1 - low) (8 - (next * m.geometry.kMax + low) % 8) →
      exec (.engineTransferAnswer .ok) s = .next (State.settle (State.present
        { x with
          sweeps := { m.sweeps with table := m.sweeps.table.set e (some { w with holedSet := insertChannels holed w.holedSet }) }
          engine := { m.engine with work := some ⟨e, w.tag, false, .process t (.accumulateRead first pilot next low k)⟩ } } .engine
        (.read (m.areaBase e + 8 * (next * m.geometry.kMax + low)) (2 * k))))) ∧
    (∀ (first channel lag n next : Nat) (pilot : List PilotSample) (phase : ProcessPhase) (rest : List Nat) (v : Sweep) (y z : State),
      m.engine.work = some ⟨e, tag, false, .process t phase⟩ →
      ((phase = .capture ∨ phase = .pilot first next pilot ∧ min (w.length - 1) d / 2 < next) ∧ rest = w.activeSet.getD [] ∨
        (phase = .accumulateWrite first pilot channel lag n ∧ (min (w.lags - 1) d < lag + n ∨ channel ∉ w.activeSet.getD []) ∨
          phase = .accumulateRead first pilot channel lag n ∧ channel ∉ w.activeSet.getD []) ∧
          rest = (w.activeSet.getD []).filter (fun c => channel < c)) →
      (∀ c ∈ rest, c ∈ scan.holed) →
      v = { w with holedSet := insertChannels rest w.holedSet, lastScan := some t } →
      y = { x with sweeps := { m.sweeps with table := m.sweeps.table.set e (some v) } } →
      z = (if t = w.start + w.length + w.lags - 2
        then y.leaveCorrelation e (if w.gapped = true then .gapped else .stacked) else y) →
      exec (.engineTransferAnswer .ok) s = .next (State.settle (State.serveFrom t ((List.range 24).filter (fun j => e < j))
        { z with engine := { z.engine with work := none } })))) ∧
  (∀ (cs set : List Nat) (c : Nat), c ∈ insertChannels cs set ↔ c ∈ cs ∨ c ∈ set)

/-- ENGINE_TRANSFER_ANSWER FAULT: the sweep is FAULT_ABORTED, unless it has left already, one PART_FAULT names it and the operation, and
the item goes on: a CLEAR ends, and a PROCESS goes on with the sweeps after it (State.serveFrom, which ProcessScanBegins expands). An
answer OK to a transfer of a sweep that has left changes nothing for it, a read is not written back, and the item goes on in the same way.
Where the engine goes on is the model's (log 18). That a read of the capture part is named PILOT_READ is the model's (log 33). -/
def Obligations.EngineFaultAborts : Prop :=
  ∀ (s m x y : State) (o : Outstanding) (work : EngineWork) (a : DramAnswer) (code : Nat), m = s.caughtUp →
    m.awaits .engine o → x = m.answeredFor .engine o a → m.engine.work = some work →
    code = (match work.job with
      | .clear _ => 1
      | .process _ .capture => 3
      | .process _ (.pilot _ _ _) => 4
      | .process _ (.accumulateRead _ _ _ _ _) => 2
      | .process _ (.accumulateWrite _ _ _ _ _) => 2) →
    (a = .ok → work.left = true) →
    y = (if a = .ok then x
      else State.submit (if work.left = true then x else x.leaveCorrelation work.entry .faultAborted) .partFault work.tag none code) →
    (∀ cursor, work.job = .clear cursor →
      exec (.engineTransferAnswer a) s = .next (State.settle { y with engine := { y.engine with work := none } })) ∧
    (∀ t phase, work.job = .process t phase →
      exec (.engineTransferAnswer a) s = .next (State.settle (State.serveFrom t ((List.range 24).filter (fun j => work.entry < j))
        { y with engine := { y.engine with work := none } })))

/-- The answer of a transfer whose work has been abandoned is discarded: memory is as the attempt left it, and the client presents what
waited behind the transfer. When the sweep whose item waited there has left meanwhile, nothing waits, and the item goes on: a CLEAR ends,
and a PROCESS goes on with the sweeps after it (State.serveFrom, which ProcessScanBegins expands). ABANDONED_ATTEMPT_FINISHED, after a
line reset: the words of a WRITE that landed are in memory, and the port may issue again.
The words left by an abandoned attempt are an operand (log 11). Where the engine goes on is the model's (log 18). -/
def Obligations.AbandonedAttemptsFinish : Prop :=
  (∀ (s m x : State) (c : Client) (o : Outstanding) (a : DramAnswer) (i : Instr), m = s.caughtUp →
    m.port.attempt = some .part → m.port.current = some c → (m.port.client c).out = some o → o.abandoned = true →
    (c, i) ∈ [(.engine, .engineTransferAnswer a), (.stackUnit, .stackUnitTransferAnswer a)] →
    (∀ p : Port, p.abandon c = p.setClient c ⟨(p.client c).out.map (fun x => { x with abandoned := true }), none⟩) ∧
    (x = { m with
        memory := m.memory.attempt o.transfer a
        port := match (m.port.client c).next with
          | none => { m.port.setClient c ⟨none, none⟩ with current := none, attempt := none }
          | some t => Port.present { m.port.setClient c ⟨none, none⟩ with current := none, attempt := none } c t } →
      ((c = .engine → ∀ work, m.engine.work = some work → work.left = false) → exec i s = .next (State.settle x)) ∧
      (∀ work, c = .engine → m.engine.work = some work → work.left = true →
        (∀ cursor, work.job = .clear cursor →
          exec i s = .next (State.settle { x with engine := { m.engine with work := none } })) ∧
        (∀ t phase, work.job = .process t phase →
          exec i s = .next (State.settle (State.serveFrom t ((List.range 24).filter (fun j => work.entry < j))
            { x with engine := { m.engine with work := none } })))))) ∧
  (∀ (s m : State) (t : Transfer) (landed : List Bool), m = s.caughtUp → m.port.abandoned = some t →
    exec (.abandonedAttemptFinished landed) s = .next (State.settle { m with
      memory := (match t with
        | .read _ _ => m.memory
        | .write a ws => m.memory.writeLanded a ws landed)
      port := { m.port with abandoned := none } }))

/-! ### The Stack Unit -/

/-- FOLD of a sweep of another outcome than STACKED: no transfer. A contributor entry with counts of zero, SWEEP_ENDED, the Sweep Table
entry freed, then the completion test and the end of a drain.
The completion test makes an OPEN slot with as many contributions as its fold target COMPLETE and appends its SEAL; no other slot.
The end of a drain is an entry into IDLE, in DRAINING with no live sweep alone; that entry empties Scan Staging, removes the PROCESS
items (the one in progress too), stops the Stall Timer and submits MODE_CHANGED with the mode left, the mode entered and the cause.
That the drain ends after step 6 of R87 is the model's (log 26). -/
def Obligations.RecordOnlyFoldAndItsEnd : Prop :=
  (∀ (s m x y : State) (e : Nat) (w : Sweep) (outcome : SweepOutcome) (code : Nat) (rest : List StackItem), m = s.caughtUp →
    m.stackUnit = ⟨.fold e :: rest, none⟩ → m.sweep? e = some w → w.outcome = some outcome →
    (outcome, code) ∈ [(.cancelled, 2), (.gapped, 3), (.stallAborted, 4), (.faultAborted, 5), (.modeAborted, 6)] →
    x = { m with
      directory := m.directory.set w.slot { m.slotEntry w.slot with
        contributors := (m.slotEntry w.slot).contributors ++ [⟨w.tag, outcome, 0, 0, 0, 0⟩] }
      reports := { m.reports with stale := m.reports.stale.set w.slot true }
      stackUnit := ⟨rest, none⟩ } →
    y = x.submit .sweepEnded w.tag none code →
    exec .fold s = .next (State.settle (State.drainEnd (State.completeTest
      { y with sweeps := { y.sweeps with table := y.sweeps.table.set e none } } w.slot)))) ∧
  (∀ (s : State) (i : Nat) (d : DirEntry), d = s.slotEntry i →
    (d.state = .opened ∧ d.contributors.length = d.foldTarget →
      s.completeTest i = { s with
        directory := s.directory.set i { d with state := .complete }
        reports := { s.reports with stale := s.reports.stale.set i true }
        stackUnit := { s.stackUnit with list := s.stackUnit.list ++ [.seal i] } }) ∧
    (d.state ≠ .opened ∨ d.contributors.length ≠ d.foldTarget → s.completeTest i = s)) ∧
  (∀ s : State, (s.mode ≠ .draining ∨ s.liveSweeps ≠ [] → s.drainEnd = s) ∧
    (s.mode = .draining → s.liveSweeps = [] → s.drainEnd = s.enterIdle .drainEnd)) ∧
  (∀ (s : State) (cause : ModeCause) (code : Nat) (process : Bool),
    (cause, code) ∈ [(.setMode, 1), (.drainEnd, 2), (.engineReset, 3)] →
    process = s.engine.work.any (fun w => match w.job with
      | .clear _ => false
      | .process _ _ => true) →
    s.enterIdle cause = State.submit { s with
      assembler := ⟨[], none, none⟩
      engine := ⟨s.engine.list.filter (fun i => match i with
        | .clear _ => true
        | .process _ => false), if process then none else s.engine.work⟩
      port := if process then s.port.abandon .engine else s.port
      sweeps := { s.sweeps with stallTimer := none }
      mode := .idle
      requestedMode := .idle } .modeChanged s.mode.code none (1 + 256 * code))

/-- FOLD of a STACKED sweep, and the channels that a fold goes on with: channels out of the active set are counted muted, then holed ones
holed, and the first other one has its accumulators read; with no such one left, the channels left being counted muted and holed, the
fold ends: the contributor entry, fold counts raised for the stacked channels, SWEEP_ENDED, the entry freed, the completion test and the
end of a drain.
That the drain ends after step 6 of R87 is the model's (log 26). -/
def Obligations.StackingFold : Prop :=
  (∀ (s m : State) (e : Nat) (w u : Sweep) (rest : List StackItem), m = s.caughtUp → m.stackUnit = ⟨.fold e :: rest, none⟩ →
    m.sweep? e = some w → w.outcome = some .stacked → u = { w with state := .folding } →
    exec .fold s = .next (State.settle (State.foldFrom u false (w.startingSet.getD [])
      ⟨e, w.slot, 0, [], [], .scratchRead 0 0, [], 0, 0, 0⟩
      { m with sweeps := { m.sweeps with table := m.sweeps.table.set e (some u) }, stackUnit := ⟨rest, none⟩ }))) ∧
  (∀ (s : State) (w : Sweep) (faulted : Bool) (passed after : List Nat) (c n muted holed : Nat) (f : FoldWork),
    (∀ x ∈ passed, x ∉ w.activeSet.getD [] ∨ x ∈ w.holedSet) → c ∈ w.activeSet.getD [] → c ∉ w.holedSet →
    muted = (passed.filter (fun x => x ∉ w.activeSet.getD [])).length →
    holed = (passed.filter (fun x => x ∈ w.activeSet.getD [])).length →
    n = min w.lags (8 - c * s.geometry.kMax % 8) → 1 ≤ w.lags →
    State.foldFrom w faulted (passed ++ c :: after) f s = State.present
      { s with stackUnit := { s.stackUnit with work := some ⟨.fold { f with
        muted := f.muted + muted, holed := f.holed + holed, channel := c, rest := after, values := [],
        phase := .scratchRead 0 n }, faulted⟩ } } .stackUnit
      (.read (s.areaBase f.entry + 8 * (c * s.geometry.kMax)) (2 * n))) ∧
  (∀ (s x y : State) (w : Sweep) (faulted : Bool) (rest : List Nat) (f : FoldWork) (d : DirEntry) (muted holed : Nat),
    d = s.slotEntry f.slot → (∀ c ∈ rest, c ∉ w.activeSet.getD [] ∨ c ∈ w.holedSet) →
    muted = (rest.filter (fun c => c ∉ w.activeSet.getD [])).length →
    holed = (rest.filter (fun c => c ∈ w.activeSet.getD [])).length →
    x = { s with
      directory := s.directory.set f.slot { d with
        contributors := d.contributors ++
          [⟨w.tag, .stacked, f.stacked.length, f.rejected, f.holed + holed, f.muted + muted⟩]
        foldCounts := d.foldCounts.mapIdx (fun c k => if c ∈ f.stacked then k + 1 else k) }
      reports := { s.reports with stale := s.reports.stale.set f.slot true } } →
    y = x.submit .sweepEnded w.tag none 1 →
    State.foldFrom w faulted rest f s = State.drainEnd { (State.completeTest
      { y with sweeps := { y.sweeps with table := y.sweeps.table.set f.entry none } } f.slot) with
      stackUnit := { (State.completeTest { y with sweeps := { y.sweeps with table := y.sweeps.table.set f.entry none } }
        f.slot).stackUnit with work := none } })

/-- The answers OK that carry a fold through a channel: the pieces of its accumulators; when all are read, the verdict, and the channel
is rejected or its sums' pieces are read and written back with the values added, formed exactly and kept in 64 bits, piece by piece; then
the channels after it.
That a sum beyond 64 bits would wrap is the model's (log 28). -/
def Obligations.FoldGoesOn : Prop :=
  ∀ (s m x : State) (o : Outstanding) (f g : FoldWork) (w : Sweep) (faulted : Bool) (words : List Word) (limit lag n k : Nat),
    m = s.caughtUp → m.awaits .stackUnit o → x = m.answeredFor .stackUnit o .ok →
    m.stackUnit.work = some ⟨.fold f, faulted⟩ → m.sweep? f.entry = some w → words = m.memory.answerWords o.transfer .ok →
    limit = (m.slotEntry f.slot).editLimit →
    (f.phase = .scratchRead lag n → g = { f with values := f.values ++ wordsAccumulators words } →
      (lag + n < w.lags → k = min (w.lags - (lag + n)) (8 - (f.channel * m.geometry.kMax + (lag + n)) % 8) →
        exec (.stackUnitTransferAnswer .ok) s = .next (State.settle (State.present
          { x with stackUnit := { m.stackUnit with work := some ⟨.fold { g with phase := .scratchRead (lag + n) k }, faulted⟩ } }
          .stackUnit (.read (m.areaBase f.entry + 8 * (f.channel * m.geometry.kMax + (lag + n))) (2 * k))))) ∧
      (w.lags ≤ lag + n → verdict limit g.values = .rejected →
        exec (.stackUnitTransferAnswer .ok) s = .next (State.settle (State.foldFrom w faulted f.rest
          { g with rejected := f.rejected + 1 } (x.applyVerdict f.channel limit .rejected)))) ∧
      (w.lags ≤ lag + n → 1 ≤ w.lags → verdict limit g.values = .accepted →
        k = min w.lags (8 - f.channel * m.geometry.kMax % 8) →
        exec (.stackUnitTransferAnswer .ok) s = .next (State.settle (State.present
          { x.applyVerdict f.channel limit .accepted with stackUnit := { m.stackUnit with
            work := some ⟨.fold { g with stacked := f.stacked ++ [f.channel], phase := .sumsRead 0 k }, faulted⟩ } }
          .stackUnit (.read (m.sumsBase f.slot + 8 * (f.channel * m.geometry.kMax)) (2 * k)))))) ∧
    (f.phase = .sumsRead lag n → ∀ sums : List Accumulator,
      sums.length = min (wordsAccumulators words).length (f.values.length - lag) →
      (∀ i < sums.length, sums[i]? = some (BitVec.ofInt 64
        (((wordsAccumulators words).getD i 0).toInt + (f.values.getD (lag + i) 0).toInt))) →
      exec (.stackUnitTransferAnswer .ok) s = .next (State.settle (State.present
        { x with stackUnit := { m.stackUnit with work := some ⟨.fold { f with phase := .sumsWrite lag n }, faulted⟩ } }
        .stackUnit (.write (m.sumsBase f.slot + 8 * (f.channel * m.geometry.kMax + lag)) (accumulatorsWords sums))))) ∧
    (f.phase = .sumsWrite lag n →
      (lag + n < w.lags → k = min (w.lags - (lag + n)) (8 - (f.channel * m.geometry.kMax + (lag + n)) % 8) →
        exec (.stackUnitTransferAnswer .ok) s = .next (State.settle (State.present
          { x with stackUnit := { m.stackUnit with work := some ⟨.fold { f with phase := .sumsRead (lag + n) k }, faulted⟩ } }
          .stackUnit (.read (m.sumsBase f.slot + 8 * (f.channel * m.geometry.kMax + (lag + n))) (2 * k))))) ∧
      (w.lags ≤ lag + n →
        exec (.stackUnitTransferAnswer .ok) s = .next (State.settle (State.foldFrom w faulted f.rest f x))))

/-- SEAL makes the slot SEALING and writes the first block of its fold counts; each answer OK brings the next write, and after the last
the slot is SEALED, STACK_SEALED is submitted, and its waiting reads are fetched. The writes are the fold counts, header blocks 1 to
15, then header block 0. The header's words: the state SEALED with the DAMAGED flag, the entry's fields, the length of the contributor
list, the contributor entries, and zeros. -/
def Obligations.SealInOrder : Prop :=
  (∀ (s m : State) (i : Nat) (rest : List StackItem) (d : DirEntry), m = s.caughtUp → m.stackUnit = ⟨.seal i :: rest, none⟩ →
    i < m.directory.length → d = { m.slotEntry i with state := .sealing } → 1 ≤ m.geometry.c →
    exec .seal s = .next (State.settle (State.present { m with
      directory := m.directory.set i d
      reports := { m.reports with stale := m.reports.stale.set i true }
      stackUnit := ⟨rest, some ⟨.seal i 1, false⟩⟩ } .stackUnit
      (.write ((m.slotRange i).base + 1024) (((d.foldCounts.take m.geometry.c).take 16).map word))))) ∧
  (∀ (s m x y : State) (o : Outstanding) (i j : Nat) (faulted : Bool) (d : DirEntry), m = s.caughtUp → m.awaits .stackUnit o →
    x = m.answeredFor .stackUnit o .ok → m.stackUnit.work = some ⟨.seal i j, faulted⟩ → d = m.slotEntry i →
    (j < (m.geometry.c + 15) / 16 + 16 →
      exec (.stackUnitTransferAnswer .ok) s = .next (State.settle (State.present
        { x with stackUnit := { m.stackUnit with work := some ⟨.seal i (j + 1), faulted⟩ } } .stackUnit
        (.write ((m.slotRange i).base + (d.sealWrite m.geometry.c j).1) (d.sealWrite m.geometry.c j).2)))) ∧
    ((m.geometry.c + 15) / 16 + 16 ≤ j →
      y = State.submit { x with
        directory := m.directory.set i { d with state := .sealed }
        reports := { m.reports with stale := m.reports.stale.set i true }
        stackUnit := { m.stackUnit with work := none } } .stackSealed d.sourcePoint none
        (d.contributors.length + (if d.damaged then 256 else 0) + (if d.headerFault then 512 else 0)) →
      exec (.stackUnitTransferAnswer .ok) s = .next (State.settle { y with drq := { m.drq with
        entries := m.drq.entries.map (Option.map (fun e =>
          if e.slot = i ∧ e.state = .waiting then { e with state := .fetching } else e))
        fetchOrder := m.drq.fetchOrder ++ (List.range m.drq.entries.length).filter (fun k =>
          (m.drq.entries[k]?).join.any (fun e => e.slot = i ∧ e.state = .waiting)) } }))) ∧
  (∀ (d : DirEntry) (c j : Nat),
    (j < (c + 15) / 16 → d.sealWrite c j = (1024 + 64 * j, (((d.foldCounts.take c).drop (16 * j)).take 16).map word)) ∧
    (∀ b < 15, d.sealWrite c ((c + 15) / 16 + b) = (64 * (b + 1), (d.headerWords.drop (16 * (b + 1))).take 16)) ∧
    d.sealWrite c ((c + 15) / 16 + 15) = (0, d.headerWords.take 16)) ∧
  (∀ d : DirEntry, d.contributors.length ≤ 32 →
    d.headerWords =
      [word (4 + (if d.damaged = true then 2 ^ 8 else 0)), word d.sourcePoint,
        word (d.foldTarget + 2 ^ 8 * d.notices + 2 ^ 16 * d.contributors.length), word d.lags, word (d.first + 2 ^ 16 * d.last),
        word (d.gapFirst + 2 ^ 16 * d.gapLast), word d.editLimit, word (d.editLimit / 2 ^ 32), word d.contributors.length,
        0, 0, 0, 0, 0, 0, 0] ++
      d.contributors.flatMap (fun c => [word (c.tag + 2 ^ 16 * c.outcome.code), word (c.stacked + 2 ^ 16 * c.rejected),
        word (c.holed + 2 ^ 16 * c.muted), 0]) ++
      List.replicate (240 - 4 * d.contributors.length) 0 ∧
    d.headerWords.length = 256) ∧
  [SweepOutcome.stacked, .cancelled, .gapped, .stallAborted, .faultAborted, .modeAborted].map SweepOutcome.code = [1, 2, 3, 4, 5, 6]

/-- STACK_UNIT_TRANSFER_ANSWER FAULT. The slot is DAMAGED in a CLEAR or a FOLD, and its header is marked in a SEAL. One PART_FAULT is
submitted at the item's first FAULT (`faulted` false), none at a later one. The item goes on: a channel whose accumulators could not be
read is counted holed, a CLEAR writes its next piece or ends, and a SEAL makes its next write or ends SEALED.
That HEADER_FAULT is set at the FAULT is the model's (log 19). -/
def Obligations.StackUnitFault : Prop :=
  ∀ (s m x : State) (o : Outstanding) (landed : List Bool) (faulted : Bool), m = s.caughtUp → m.awaits .stackUnit o →
    x = m.answeredFor .stackUnit o (.fault landed) →
    (∀ (i cursor : Nat), m.stackUnit.work = some ⟨.clear i cursor, faulted⟩ →
      exec (.stackUnitTransferAnswer (.fault landed)) s =
        .next (State.settle ((x.stackDamage i faulted .slotClear).continueSlotClear i cursor true))) ∧
    (∀ (f : FoldWork) (w : Sweep), m.stackUnit.work = some ⟨.fold f, faulted⟩ → m.sweep? f.entry = some w →
      (∀ lag n, f.phase = .scratchRead lag n →
        exec (.stackUnitTransferAnswer (.fault landed)) s = .next (State.settle
          (State.foldFrom w true f.rest { f with holed := f.holed + 1 } (x.stackDamage f.slot faulted .foldScratch)))) ∧
      (∀ lag n, f.phase = .sumsRead lag n ∨ f.phase = .sumsWrite lag n →
        exec (.stackUnitTransferAnswer (.fault landed)) s = .next (State.settle
          (State.foldFrom w true f.rest f (x.stackDamage f.slot faulted .foldSums))))) ∧
    (∀ (i next : Nat) (d : DirEntry) (y : State), m.stackUnit.work = some ⟨.seal i next, faulted⟩ → i < m.directory.length →
      d = m.slotEntry i →
      y = (if d.headerFault = true then x else { x with
        directory := m.directory.set i { d with headerFault := true }
        reports := { m.reports with stale := m.reports.stale.set i true } }) →
      exec (.stackUnitTransferAnswer (.fault landed)) s = .next (State.settle (State.continueSeal
        (if faulted = true then y else y.submit .partFault d.sourcePoint none 9) i next true))) ∧
    (∀ (y : State) (i cursor : Nat),
      (nextTablePiece y.geometry.c y.geometry.kMax (y.slotEntry i).lags cursor = none →
        y.continueSlotClear i cursor true = { y with stackUnit := { y.stackUnit with work := none } }) ∧
      (∀ start n, nextTablePiece y.geometry.c y.geometry.kMax (y.slotEntry i).lags cursor = some (start, n) →
        y.continueSlotClear i cursor true = State.present
          { y with stackUnit := { y.stackUnit with work := some ⟨.clear i (start + n), true⟩ } } .stackUnit
          (.write (y.sumsBase i + 4 * start) (List.replicate n 0)))) ∧
    (∀ (y z : State) (i j : Nat) (d : DirEntry), d = y.slotEntry i →
      (j < (y.geometry.c + 15) / 16 + 16 → y.continueSeal i j true = State.present
        { y with stackUnit := { y.stackUnit with work := some ⟨.seal i (j + 1), true⟩ } } .stackUnit
        (.write ((y.slotRange i).base + (d.sealWrite y.geometry.c j).1) (d.sealWrite y.geometry.c j).2)) ∧
      ((y.geometry.c + 15) / 16 + 16 ≤ j →
        z = State.submit { y with
          directory := y.directory.set i { d with state := .sealed }
          reports := { y.reports with stale := y.reports.stale.set i true }
          stackUnit := { y.stackUnit with work := none } } .stackSealed d.sourcePoint none
          (d.contributors.length + (if d.damaged then 256 else 0) + (if d.headerFault then 512 else 0)) →
        y.continueSeal i j true = { z with drq := { y.drq with
          entries := y.drq.entries.map (Option.map (fun e =>
            if e.slot = i ∧ e.state = .waiting then { e with state := .fetching } else e))
          fetchOrder := y.drq.fetchOrder ++ (List.range y.drq.entries.length).filter (fun k =>
            (y.drq.entries[k]?).join.any (fun e => e.slot = i ∧ e.state = .waiting)) } })) ∧
    (∀ (y z : State) (slot code : Nat) (op : PartOperation) (d : DirEntry), d = y.slotEntry slot →
      (op, code) ∈ [(.slotClear, 6), (.foldScratch, 7), (.foldSums, 8)] →
      z = (if d.damaged = true then y else { y with
        directory := y.directory.set slot { d with damaged := true }
        reports := { y.reports with stale := y.reports.stale.set slot true } }) →
      y.stackDamage slot true op = z ∧ y.stackDamage slot false op = z.submit .partFault d.sourcePoint none code)

/-! ### Channels -/

/-- The verdict on a trace: ACCEPTED when the edit limit is 0 or no magnitude, taken exactly, is greater than it; else REJECTED. -/
def Obligations.PeakVerdict : Prop :=
  ∀ (limit : Nat) (values : List Accumulator),
    (verdict limit values = .accepted ↔ limit = 0 ∨ ∀ v ∈ values, v.toInt.natAbs ≤ limit) ∧
      (verdict limit values = .rejected ↔ 1 ≤ limit ∧ ∃ v ∈ values, limit < v.toInt.natAbs)

/-- The edit test: the score that a verdict leaves, and the condition and report that the new score brings; a MUTED channel and a limit of 0
keep both. A channel entering MUTED leaves the active set of every live sweep in CORRELATING, STALLED or FOLD_WAIT. -/
def Obligations.EditTest : Prop :=
  (∀ (s : State) (c limit : Nat) (v : Verdict), (s.channel c).condition = .muted ∨ limit = 0 → s.applyVerdict c limit v = s) ∧
  (∀ (s : State) (c limit score : Nat) (v : Verdict) (x : Channel), x = s.channel c → x.condition ≠ .muted → limit ≠ 0 →
    score = (match v with
      | .rejected => min 255 (x.score + 4)
      | .accepted => x.score - 1) →
    (score = x.score → s.applyVerdict c limit v = s) ∧
    (score ≠ x.score →
      (x.condition = .good → score < 48 → s.applyVerdict c limit v = { s with channels := s.channels.set c ⟨score, .good⟩ }) ∧
      (x.condition = .good → 48 ≤ score → s.applyVerdict c limit v =
        State.submit { s with channels := s.channels.set c ⟨score, .suspect⟩ } .channelSuspect c none score) ∧
      (x.condition = .suspect → score < 48 → s.applyVerdict c limit v =
        State.submit { s with channels := s.channels.set c ⟨score, .good⟩ } .channelClear c none 1) ∧
      (x.condition = .suspect → 48 ≤ score → score < 160 →
        s.applyVerdict c limit v = { s with channels := s.channels.set c ⟨score, .suspect⟩ }) ∧
      (x.condition = .suspect → 160 ≤ score → s.applyVerdict c limit v = State.muteSweeps
        (State.submit { s with channels := s.channels.set c ⟨score, .muted⟩ } .channelMuted c none 1) c))) ∧
  (∀ (s : State) (c : Nat), s.muteSweeps c = { s with sweeps := { s.sweeps with table := s.sweeps.table.map (Option.map (fun w =>
    if w.state = .correlating ∨ w.state = .stalled ∨ w.state = .foldWait
    then { w with activeSet := w.activeSet.map (fun a => a.filter (· != c)) } else w)) } })

/-! ### The Deferred Read Queue and the Pilot Unit -/

/-- DRQ_FETCH_ANSWER for an entry still FETCHING makes it READY with the words of memory, or FAULTED with a PART_FAULT that carries its
requester; its countdown is reloaded and it leaves the fetch order. For an entry freed meanwhile the answer is discarded. -/
def Obligations.FetchAnswered : Prop :=
  ∀ (s m x : State) (o : Outstanding) (a : DramAnswer), m = s.caughtUp → m.awaits .drqFetch o →
    x = { m.answeredFor .drqFetch o a with port := { (m.answeredFor .drqFetch o a).port with fetchFor := none } } →
    (m.port.fetchFor = none → exec (.drqFetchAnswer a) s = .next (State.settle x)) ∧
    (∀ (i : Nat) (e : DrqEntry) (drq : DrqEntry → Drq), m.port.fetchFor = some i → m.drq.entries[i]? = some (some e) →
      e.state = .fetching →
      (∀ y, drq y = { m.drq with
        entries := m.drq.entries.set i (some y), fetchOrder := m.drq.fetchOrder.filter (· != i) }) →
      (a = .ok → exec (.drqFetchAnswer a) s = .next (State.settle { x with
        drq := drq { e with
          state := .ready, buffer := m.memory.answerWords o.transfer .ok, countdown := m.drq.period } })) ∧
      (∀ landed, a = .fault landed → exec (.drqFetchAnswer a) s = .next (State.settle (State.submit { x with
        drq := drq { e with state := .faulted, buffer := [], countdown := m.drq.period } }
        .partFault e.address (some e.requester) 11))))

/-- PILOT_CHECK_START, once the writes accepted before the command have left the buffer, reads the first piece of the extent; each answer
OK adds its samples to the sum and reads the next piece, or ends the check READY or FAULTED with CHECKSUM; a FAULT ends it FAULTED. -/
def Obligations.PilotCheck : Prop :=
  (∀ (s m : State) (id next n : Nat) (sum : Word) (p : PilotEntry), m = s.caughtUp →
    m.commands.progress = some (.definePilot id 0 false next sum) → p = m.pilotEntry id →
    n = min ((p.length + 1) / 2) (16 - p.address / 4 % 16) →
    exec .pilotCheckStart s = .next (State.settle (State.present
      { m with commands := { m.commands with progress := some (.definePilot id 0 true n 0) } } .pilotUnit (.read p.address n)))) ∧
  (∀ (s m x : State) (o : Outstanding) (a : DramAnswer) (id drain next n : Nat) (started : Bool) (sum total : Word) (p : PilotEntry)
    (words : List Word), m = s.caughtUp → m.awaits .pilotUnit o → x = m.answeredFor .pilotUnit o a →
    m.commands.progress = some (.definePilot id drain started next sum) → p = m.pilotEntry id →
    words = m.memory.answerWords o.transfer .ok →
    total = ((words.flatMap (fun w => [w.extractLsb' 0 16, w.extractLsb' 16 16])).take (p.length - 2 * (next - words.length))).foldl
      (fun sum v => sum + BitVec.signExtend 32 v) sum →
    (∀ landed, a = .fault landed → exec (.pilotCheckReadAnswer a) s = .next (State.settle (State.endCommand
      { x.submit .partFault id none 5 with pilots := m.pilots.set id { p with state := .faulted } } .memFault))) ∧
    (a = .ok → next < (p.length + 1) / 2 →
      n = min ((p.length + 1) / 2 - next) (16 - (p.address + 4 * next) / 4 % 16) →
      exec (.pilotCheckReadAnswer a) s = .next (State.settle (State.present
        { x with commands := { m.commands with progress := some (.definePilot id 0 true (next + n) total) } } .pilotUnit
        (.read (p.address + 4 * next) n)))) ∧
    (a = .ok → (p.length + 1) / 2 ≤ next →
      exec (.pilotCheckReadAnswer a) s = .next (State.settle (State.endCommand
        { x with pilots := m.pilots.set id { p with state := if total = p.checksum then .ready else .faulted } }
        (if total = p.checksum then .ok else .checksum)))))

/-! ### The Report Unit -/

/-- A report that finds room, with no kind pending, takes the tail of the hand order; pending kinds that find room go ahead of it, each as
a COALESCED record, lowest first; without room the report is lost to pending: its kind's count rises, held at 65,535, or its kind joins. -/
def Obligations.ReportSubmitted : Prop :=
  ∀ (s : State) (r : Reports) (newest : Option Nat) (kind : ReportKind) (subject detail : Nat) (q : Option Requester) (room : Bool),
    r = s.reports → newest = s.assembler.newest →
    room = decide (r.size ≠ 0 ∧ (r.producer + r.size - r.consumer) % r.size + r.recordQueue.length < r.size - 1) →
    (r.pendingKinds = [] → room = true → s.submit kind subject q detail =
      { s with reports := { r with handOrder := r.handOrder ++ [.record ⟨kind, false, subject, q, detail, newest⟩] } }) ∧
    (∀ p rest, r.pendingKinds = p :: rest → room = true → s.submit kind subject q detail =
      State.submit { s with reports := { r with
        pendingKinds := rest
        handOrder := r.handOrder ++ [.record ⟨p.kind, true, p.subject, p.requester, p.count, newest⟩] } } kind subject q detail) ∧
    (∀ before p after, room = false → r.pendingKinds = before ++ p :: after → p.kind = kind →
      (∀ x ∈ before, x.kind.code < kind.code) → s.submit kind subject q detail =
      { s with reports := { r with pendingKinds := before ++ { p with count := min 65535 (p.count + 1) } :: after } }) ∧
    (∀ before after, room = false → r.pendingKinds = before ++ after → (∀ x ∈ before, x.kind.code < kind.code) →
      (∀ x ∈ after, kind.code < x.kind.code) → s.submit kind subject q detail =
      { s with reports := { r with pendingKinds := before ++ ⟨kind, 1, subject, q⟩ :: after } })

/-- The answers of the Report Unit client's record, producer and mirror writes: what each OK and each FAULT does to the producer index,
the pending kinds and the reports. An answer that a SET_REPORTS has discarded has no effect. -/
def Obligations.ReportWritesAnswered : Prop :=
  ∀ (s m x : State) (o : Outstanding) (write : ReportWrite) (a : DramAnswer), m = s.caughtUp → m.awaits .reportUnit o →
    x = { m.answeredFor .reportUnit o a with reports := { m.reports with out := none } } →
    (∀ (r : Record) (place : Nat) (lost : State), m.reports.out = some ⟨.record r place, false⟩ →
      lost = { x with reports := { x.reports with
        pendingKinds := losePending r.kind r.subject r.requester (if r.coalesced = true then r.detail else 1)
          x.reports.pendingKinds } } →
      (a = .ok → exec (.reportWriteAnswer a) s = .next (State.settle { x with reports := { x.reports with
        producer := (m.reports.producer + 1) % m.reports.size, producerDue := true } })) ∧
      (∀ landed, a = .fault landed → exec (.reportWriteAnswer a) s = .next (State.settle
        (if r.kind = .partFault ∨ r.coalesced = true then lost else lost.submit .partFault place none 13)))) ∧
    (∀ (reset : Bool), m.reports.out = some ⟨.producer reset, false⟩ →
      (a = .ok → exec (.producerWriteAnswer a) s = .next (State.settle { x with reports := { x.reports with producerOk := true } })) ∧
      (∀ landed (y : State), a = .fault landed → y = { x with reports := { x.reports with producerOk := false } } →
        exec (.producerWriteAnswer a) s = .next (State.settle
          (if reset = true ∨ m.reports.producerOk = true then y.submit .partFault m.reports.producer none 14 else y)))) ∧
    (∀ (slot : Nat), m.reports.out = some ⟨.mirror slot, false⟩ →
      (a = .ok → exec (.mirrorWriteAnswer a) s = .next (State.settle x)) ∧
      (∀ landed, a = .fault landed →
        exec (.mirrorWriteAnswer a) s = .next (State.settle (x.submit .partFault slot none 10)))) ∧
    (m.reports.out = some ⟨write, true⟩ →
      (∀ r place, write = .record r place → exec (.reportWriteAnswer a) s = .next (State.settle x)) ∧
      (∀ reset, write = .producer reset → exec (.producerWriteAnswer a) s = .next (State.settle x)))

/-- ATTN is asserted exactly while attention is enabled and the indexes differ, a kind is pending, or a kind's COALESCED record is queued
and not yet written. A flush leaves it as it is. A record is queued from its place in the hand order to the answer of its write, unless a
SET_REPORTS has discarded that answer.
That a queued COALESCED record keeps it asserted while the indexes are equal and nothing is pending is the model's (log 37). -/
def Obligations.AttnLine : Prop :=
  (∀ s : State, s.attn = true ↔
    s.reports.enable = true ∧ (s.reports.producer ≠ s.reports.consumer ∨ s.reports.pendingKinds ≠ [] ∨
      ∃ x ∈ s.reports.recordQueue, x.coalesced = true)) ∧
  (∀ (s t : State) (newest : Option Nat), t = { s with reports := s.reports.flush newest } → t.attn = s.attn) ∧
  (∀ (r : Reports) (x : Record), x ∈ r.recordQueue ↔ .record x ∈ r.handOrder ∨ ∃ place, r.out = some ⟨.record x place, false⟩)

/-- SET_REPORTS: a size or an enable out of range is BAD_OPERAND. Else the records with a ring place are lost to pending, outstanding
record and producer writes are discarded, both indexes become 0, a producer write of 0 is handed, and a ring takes the pending kinds.
When an outstanding record counts as lost is the model's (log 21).
The order in which the withdrawn records are marked pending is the model's (log 36). -/
def Obligations.ReportsSet : Prop :=
  ∀ (s m : State) (q : QueueEntry), m = s.settle → m.heads .setReports q →
    (q.whole 1 ∉ [0, 16, 32, 64, 128, 256, 512, 1024] ∨ 1 < q.whole 2 →
      exec .setReports s = .next (State.settle (m.endCommand .badOperand))) ∧
    (∀ r : Reports, q.whole 1 ∈ [0, 16, 32, 64, 128, 256, 512, 1024] → q.whole 2 ≤ 1 →
      r = { m.reports with
        size := q.whole 1
        enable := q.whole 2 == 1
        producer := 0
        consumer := 0
        pendingKinds := m.reports.recordQueue.foldl (fun kinds x =>
          losePending x.kind x.subject x.requester (if x.coalesced = true then x.detail else 1) kinds) m.reports.pendingKinds
        handOrder := m.reports.handOrder.filter (fun h => match h with
          | .record _ => false
          | _ => true) ++ [.producerReset]
        out := m.reports.out.map (fun o => match o.write with
          | .record _ _ => { o with discarded := true }
          | .producer _ => { o with discarded := true }
          | _ => o)
        producerDue := false } →
      exec .setReports s = .next (State.settle (State.endCommand
        { m with reports := if q.whole 1 = 0 then r else r.flush m.assembler.newest } .ok)))

/-! ### The Command Unit -/

/-- A command that ends leaves the queue, and the queue goes on; its results write and its final status write with its tag are handed to
the Report Unit's client, or wait behind its BUSY write when that has not been handed. -/
def Obligations.CommandEnds : Prop :=
  ∀ (s : State) (q : QueueEntry) (rest : List QueueEntry) (status : Status) (results : Option (List Word)) (c : CommandSlot),
    s.commands.queue = q :: rest → c = s.commandSlot q.slot →
    (q.slot ∉ s.commands.busyWaits → s.endCommand status results = { s with
      commands := { s.commands with queue := rest, progress := none }
      reports := { s.reports with handOrder := s.reports.handOrder ++
        (match results with
          | none => []
          | some words => [.slotWrite ⟨q.slot, .results, words⟩]) ++
        [.slotWrite ⟨q.slot, .final,
          [word (status.code + 2 ^ 16 * ((c.copy.getD 0 0).extractLsb' 16 16).toNat)]⟩] } }) ∧
    (q.slot ∈ s.commands.busyWaits → s.endCommand status results = { s with
      commands := { s.commands with
        queue := rest, progress := none, slots := s.commands.slots.set q.slot { c with ending := some ⟨status, results⟩ } } })

/-- BUSY_WRITE_HANDED, once the buffer holds no write to the slot at the front: its BUSY write is handed, and after it the writes of the
command when it has ended already. COMMAND_SLOT_WRITE_ANSWER: the answer to the final status write returns the slot, OK or FAULT; the
first FAULT among the command's writes submits a PART_FAULT.
Waiting BUSY writes are served in posting order (log 23). -/
def Obligations.CommandSlotWrites : Prop :=
  (∀ (s m : State) (j : Nat) (rest : List Nat) (c : CommandSlot) (tag : Nat), m = s.caughtUp → m.commands.busyWaits = j :: rest →
    (∀ w ∈ m.pwb, w.range.meets ⟨m.controlBase + 32 * j, 32⟩ = false) → c = m.commandSlot j →
    tag = ((c.copy.getD 0 0).extractLsb' 16 16).toNat →
    exec .busyWriteHanded s = .next (State.settle { m with
      commands := { m.commands with busyWaits := rest, slots := m.commands.slots.set j { c with ending := none } }
      reports := { m.reports with handOrder := m.reports.handOrder ++ [.slotWrite ⟨j, .busy, [word (2 + 2 ^ 16 * tag)]⟩] ++
        (match c.ending with
          | none => []
          | some ⟨status, none⟩ => [.slotWrite ⟨j, .final, [word (status.code + 2 ^ 16 * tag)]⟩]
          | some ⟨status, some words⟩ =>
            [.slotWrite ⟨j, .results, words⟩, .slotWrite ⟨j, .final, [word (status.code + 2 ^ 16 * tag)]⟩]) } })) ∧
  (∀ (s m x : State) (o : Outstanding) (w : SlotWrite) (a : DramAnswer) (c : CommandSlot), m = s.caughtUp → m.awaits .reportUnit o →
    x = { m.answeredFor .reportUnit o a with reports := { m.reports with out := none } } →
    m.reports.out = some ⟨.slotWrite w, false⟩ → m.commands.slots[w.slot]? = some c →
    (a = .ok ∨ c.faulted = true → exec (.commandSlotWriteAnswer a) s = .next (State.settle { x with
      commands := { m.commands with
        slots := m.commands.slots.set w.slot { c with busy := if w.role = .final then false else c.busy } } })) ∧
    (∀ landed, a = .fault landed → c.faulted = false → exec (.commandSlotWriteAnswer a) s = .next (State.settle (State.submit { x with
      commands := { m.commands with slots := m.commands.slots.set w.slot { c with
        faulted := true, busy := if w.role = .final then false else c.busy } } } .partFault w.slot none 12))))

/-- A command of no kind is BAD_KIND, and one that its mode does not allow BAD_MODE, its operands not examined. -/
def Obligations.BadKindAndMode : Prop :=
  (∀ (s m : State) (q : QueueEntry), m = s.settle → m.commands.progress = none → m.commands.queue.head? = some q →
    q.command = none → exec .badKindCommand s = .next (State.settle (m.endCommand .badKind))) ∧
  (∀ (s m : State) (q : QueueEntry) (k : CommandKind), m = s.settle → m.commands.progress = none →
    m.commands.queue.head? = some q → q.command = some k →
    ((k = .setGeometry ∨ k = .setWindow) ∧ m.mode ≠ .idle ∨ k = .noticeSweep ∧ m.mode ≠ .acquire ∨
      k = .openSourcePoint ∧ m.mode = .draining ∨ k = .cancelSweep ∧ m.mode = .idle) →
    exec k.row s = .next (State.settle (m.endCommand .badMode)))

/-- SET_GEOMETRY, SET_TIMERS and SET_ARBITER set their values when these are in range, and change nothing else; else BAD_OPERAND; and
SET_GEOMETRY with a window on is BAD_STATE. -/
def Obligations.SettingsCommands : Prop :=
  ∀ (s m : State) (q : QueueEntry), m = s.settle →
    (m.heads .setGeometry q → ∀ c k l, c = q.whole 1 → k = q.whole 2 → l = q.whole 3 →
      (c < 1 ∨ 3072 < c ∨ k < 1 ∨ 4096 < k ∨ l < 64 ∨ 32768 < l →
        exec .setGeometry s = .next (State.settle (m.endCommand .badOperand))) ∧
      (1 ≤ c ∧ c ≤ 3072 ∧ 1 ≤ k ∧ k ≤ 4096 ∧ 64 ≤ l ∧ l ≤ 32768 →
        (m.windows ≠ ⟨none, none, none, none⟩ → exec .setGeometry s = .next (State.settle (m.endCommand .badState))) ∧
        (m.windows = ⟨none, none, none, none⟩ →
          exec .setGeometry s = .next (State.settle (State.endCommand { m with geometry := ⟨c, k, l⟩ } .ok))))) ∧
    (m.heads .setTimers q →
      (q.whole 1 = 0 ∨ 65535 < q.whole 1 ∨ q.whole 2 = 0 ∨ 65535 < q.whole 2 →
        exec .setTimers s = .next (State.settle (m.endCommand .badOperand))) ∧
      (1 ≤ q.whole 1 ∧ q.whole 1 ≤ 65535 ∧ 1 ≤ q.whole 2 ∧ q.whole 2 ≤ 65535 →
        exec .setTimers s = .next (State.settle (State.endCommand { m with
          sweeps := { m.sweeps with stallPeriod := q.whole 1 }, drq := { m.drq with period := q.whole 2 } } .ok)))) ∧
    (m.heads .setArbiter q →
      (q.whole 1 = 0 ∨ 255 < q.whole 1 ∨ q.whole 2 = 0 ∨ 255 < q.whole 2 →
        exec .setArbiter s = .next (State.settle (m.endCommand .badOperand))) ∧
      (1 ≤ q.whole 1 ∧ q.whole 1 ≤ 255 ∧ 1 ≤ q.whole 2 ∧ q.whole 2 ≤ 255 →
        exec .setArbiter s = .next (State.settle (State.endCommand { m with
          port := { m.port with forwardSlice := q.whole 1, partSlice := q.whole 2 } } .ok))))

/-- SET_WINDOW and WINDOW_CHANGE. A setting in range (`w`; the values of each selector, those that turn its window off looked at no further)
with the geometry set, no state that forbids it, and a new range below 2^40
apart from the other windows and the Control Area is taken; it is applied at once, or later by WINDOW_CHANGE, when no part-side
transfer is addressed into the old range and no buffered write into the new one. The bytes of each window, and which windows a new one
is compared with.
That operand words are taken whole is the model's (log 31). That the change may be made in the same event is the model's (log 8). -/
def Obligations.WindowSet : Prop :=
  (∀ (s m : State) (q : QueueEntry), m = s.settle → m.heads .setWindow q →
    (q.windowSetting = none → exec .setWindow s = .next (State.settle (m.endCommand .badOperand))) ∧
    (∀ w, q.windowSetting = some w →
      (m.geometry.c = 0 → exec .setWindow s = .next (State.settle (m.endCommand .notReady))) ∧
      (m.geometry.c ≠ 0 →
        ((∃ x, w = .stack x) ∧ (∃ d ∈ m.directory, d.state ≠ .free) ∨
          (∃ x, w = .pilot x ∧ ∃ p ∈ m.pilots, p.state ≠ .empty ∧ ∀ y, x = some y → p.extent.within y.range = false) →
          exec .setWindow s = .next (State.settle (m.endCommand .badState))) ∧
        ((∀ x, w = .stack x → ∀ d ∈ m.directory, d.state = .free) →
          (∀ x, w = .pilot x → ∀ p ∈ m.pilots, p.state = .empty ∨ ∃ y, x = some y ∧ p.extent.within y.range = true) →
          (∀ r, w.range m.geometry = some r → 2 ^ 40 - 1 < r.base + r.size - 1 →
            exec .setWindow s = .next (State.settle (m.endCommand .tooSmall))) ∧
          (∀ r, w.range m.geometry = some r → r.base + r.size - 1 ≤ 2 ^ 40 - 1 →
            (∃ z ∈ ⟨m.controlBase, 65536⟩ :: m.otherRanges w, r.meets z = true) →
            exec .setWindow s = .next (State.settle (m.endCommand .overlap))) ∧
          ((∀ r, w.range m.geometry = some r → r.base + r.size - 1 ≤ 2 ^ 40 - 1 ∧
            ∀ z ∈ ⟨m.controlBase, 65536⟩ :: m.otherRanges w, r.meets z = false) →
            (m.windowReady w = true → exec .setWindow s = .next (State.settle
              (State.endCommand { m with windows := m.windows.apply w } .ok))) ∧
            (m.windowReady w = false → exec .setWindow s = .next (State.settle
              { m with commands := { m.commands with progress := some (.setWindow w) } }))))))) ∧
  (∀ (s m : State) (w : WindowSetting), m = s.settle → m.commands.progress = some (.setWindow w) → m.windowReady w = true →
    exec .windowChange s = .next (State.settle (State.endCommand { m with windows := m.windows.apply w } .ok))) ∧
  (∀ (s : State) (w : WindowSetting), s.windowReady w = true ↔
    (∀ r, s.oldRange w = some r → ∀ c o, (s.port.client c).out = some o → o.transfer.range.meets r = false) ∧
    (∀ r, w.range s.geometry = some r → ∀ x ∈ s.pwb, x.range.meets r = false)) ∧
  (∀ (q : QueueEntry) (base count limit : Nat), base = q.whole 2 + 2 ^ 32 * q.whole 3 → count = q.whole 4 →
    limit = q.whole 4 + 2 ^ 32 * q.whole 5 →
    (q.whole 1 ∉ [1, 2, 3, 4] → q.windowSetting = none) ∧
    (q.whole 1 = 1 →
      (count = 0 → q.windowSetting = some (.raw none)) ∧
      (count ≠ 0 → 2 ^ 40 - 1 < base ∨ base % 64 ≠ 0 ∨ count < 16 ∨ 4096 < count ∨ q.whole 5 ≠ 1 ∧ q.whole 5 ≠ 2 →
        q.windowSetting = none) ∧
      (base ≤ 2 ^ 40 - 1 → base % 64 = 0 → 16 ≤ count → count ≤ 4096 →
        (q.whole 5 = 1 → q.windowSetting = some (.raw (some ⟨base, count, .tap⟩))) ∧
        (q.whole 5 = 2 → q.windowSetting = some (.raw (some ⟨base, count, .absorb⟩))))) ∧
    (q.whole 1 = 2 →
      (count = 0 → q.windowSetting = some (.stack none)) ∧
      (count ≠ 0 → 2 ^ 40 - 1 < base ∨ base % 64 ≠ 0 ∨ 32 < count → q.windowSetting = none) ∧
      (base ≤ 2 ^ 40 - 1 → base % 64 = 0 → 1 ≤ count → count ≤ 32 →
        q.windowSetting = some (.stack (some ⟨base, count⟩)))) ∧
    (q.whole 1 = 3 →
      (count = 0 → q.windowSetting = some (.scratch none)) ∧
      (count ≠ 0 → 2 ^ 40 - 1 < base ∨ base % 64 ≠ 0 ∨ count ≠ 24 → q.windowSetting = none) ∧
      (base ≤ 2 ^ 40 - 1 → base % 64 = 0 → count = 24 → q.windowSetting = some (.scratch (some ⟨base⟩)))) ∧
    (q.whole 1 = 4 →
      (limit < base → q.windowSetting = some (.pilot none)) ∧
      (base ≤ limit → base % 64 ≠ 0 ∨ 2 ^ 40 - 1 < limit ∨ (limit + 1) % 64 ≠ 0 → q.windowSetting = none) ∧
      (base ≤ limit → base % 64 = 0 → limit ≤ 2 ^ 40 - 1 → (limit + 1) % 64 = 0 →
        q.windowSetting = some (.pilot (some ⟨base, limit⟩))))) ∧
  (∀ (g : Geometry) (table : Nat), table = 64 * ((8 * g.c * g.kMax + 63) / 64) →
    (∀ w, (WindowSetting.raw (some w)).range g = some ⟨w.base, w.slots * (64 * ((8 + 4 * g.c + 63) / 64))⟩) ∧
    (∀ w, (WindowSetting.stack (some w)).range g = some ⟨w.base, w.slots * (1024 + 64 * ((4 * g.c + 63) / 64) + table)⟩) ∧
    (∀ w, (WindowSetting.scratch (some w)).range g = some ⟨w.base, 24 * (table + 64 * ((2 * g.lMax + 63) / 64))⟩) ∧
    (∀ w, (WindowSetting.pilot (some w)).range g = some ⟨w.base, w.limit + 1 - w.base⟩) ∧
    ∀ w ∈ [WindowSetting.raw none, .stack none, .scratch none, .pilot none], w.range g = none) ∧
  (∀ (s : State) (ranges : List WindowSetting → List Range),
    (∀ l, ranges l = l.filterMap (fun w => w.range s.geometry)) →
    (∀ w, s.oldRange (.raw w) = (WindowSetting.raw s.windows.raw).range s.geometry ∧
      s.otherRanges (.raw w) = ranges [.stack s.windows.stack, .scratch s.windows.scratch, .pilot s.windows.pilot]) ∧
    (∀ w, s.oldRange (.stack w) = (WindowSetting.stack s.windows.stack).range s.geometry ∧
      s.otherRanges (.stack w) = ranges [.raw s.windows.raw, .scratch s.windows.scratch, .pilot s.windows.pilot]) ∧
    (∀ w, s.oldRange (.scratch w) = (WindowSetting.scratch s.windows.scratch).range s.geometry ∧
      s.otherRanges (.scratch w) = ranges [.raw s.windows.raw, .stack s.windows.stack, .pilot s.windows.pilot]) ∧
    (∀ w, s.oldRange (.pilot w) = (WindowSetting.pilot s.windows.pilot).range s.geometry ∧
      s.otherRanges (.pilot w) = ranges [.raw s.windows.raw, .stack s.windows.stack, .scratch s.windows.scratch])) ∧
  (∀ w : Windows,
    (∀ x, w.apply (.raw x) = { w with raw := x }) ∧ (∀ x, w.apply (.stack x) = { w with stack := x }) ∧
    (∀ x, w.apply (.scratch x) = { w with scratch := x }) ∧ (∀ x, w.apply (.pilot x) = { w with pilot := x })) ∧
  (∀ r q : Range, (q.within r = true ↔ r.base ≤ q.base ∧ q.base + q.size ≤ r.base + r.size) ∧
    (1 ≤ r.size → 1 ≤ q.size → (q.meets r = true ↔
      ∃ a, q.base ≤ a ∧ a < q.base + q.size ∧ r.base ≤ a ∧ a < r.base + r.size)))

/-- READ_STATE and READ_SWEEP return the values held, change nothing, and end. A tag that no live sweep holds is UNKNOWN. -/
def Obligations.ReadCommands : Prop :=
  ∀ (s m : State) (q : QueueEntry), m = s.settle →
    (m.heads .readState q → exec .readState s = .next (State.settle (m.endCommand .ok (some
      ([word (m.mode.code + 256 * m.requestedMode.code)] ++
        (match m.assembler.newest with
          | none => [0, 0x80000000]
          | some n => [word n, word (n / 2 ^ 32)]) ++
        [word m.liveSweeps.length,
          word ((m.directory.filter (fun d => d.state != .free)).length + 2 ^ 16 * m.drqInUse.length),
          word m.assembler.staging.length]))))) ∧
    (m.heads .readSweep q →
      (m.findTag (q.low 1) = none → exec .readSweep s = .next (State.settle (m.endCommand .unknown))) ∧
      (∀ e w, m.findTag (q.low 1) = some (e, w) → exec .readSweep s = .next (State.settle (m.endCommand .ok (some
        ([word (w.state.code + 256 * (match w.outcome with
            | none => 0
            | some o => o.code) + 2 ^ 16 * (if w.gapped = true then 1 else 0))] ++
          (match w.lastScan with
            | none => [0, 0x80000000]
            | some n => [word n, word (n / 2 ^ 32)]) ++
          [word (w.activeSet.getD []).length, word w.holedSet.length, 0])))))) ∧
    (∀ tag : Nat, (∀ p ∈ m.liveSweeps, p.2.tag ≠ tag) → m.findTag tag = none)

/-- READ_CHANNEL: BAD_OPERAND for a channel of C or more; else OK with the score and the condition, and no state changed. -/
def Obligations.ReadChannel : Prop :=
  ∀ (s m : State) (q : QueueEntry) (x : Channel), m = s.settle → m.heads .readChannel q →
    (m.geometry.c ≤ q.whole 1 → exec .readChannel s = .next (State.settle (m.endCommand .badOperand))) ∧
    (q.whole 1 < m.geometry.c → m.channels[q.whole 1]? = some x →
      exec .readChannel s = .next (State.settle (m.endCommand .ok (some [word x.score, word (match x.condition with
        | .good => 0
        | .suspect => 1
        | .muted => 2), 0, 0, 0, 0]))))

/-- ENGINE_RESET's three events. First the sweeps, the engine, the use counts and the Stack Unit are reset and every OPEN, COMPLETE or
SEALING slot is freed in increasing order with its reports; then Scan Staging is emptied; then the part enters IDLE unless it is there,
ENGINE_RESET_DONE is submitted with the number of slots freed, and the command ends. -/
def Obligations.EngineReset : Prop :=
  (∀ (s m x : State) (q : QueueEntry) (slots : List Nat), m = s.settle → m.heads .engineReset q →
    x = { m with
      sweeps := { m.sweeps with table := m.sweeps.table.map (fun _ => none), stallTimer := none }
      engine := ⟨[], none⟩
      pilots := m.pilots.map (fun p => { p with useCount := 0 })
      stackUnit := ⟨[], none⟩
      port := (m.port.abandon .engine).abandon .stackUnit } →
    slots = (List.range 32).filter (fun i => [.opened, .complete, .sealing].contains (m.slotEntry i).state) →
    exec .engineReset s = .next (State.settle { slots.foldl (fun y i => State.discardSlot
        (State.submit { y with
          directory := y.directory.set i ⟨.free, 0, 0, 0, 0, 0, 0, 0, 0, 0, false, false, [], []⟩
          reports := { y.reports with stale := y.reports.stale.set i true } }
          .stackDiscarded (y.slotEntry i).sourcePoint none (y.slotEntry i).state.code) i .reset) x with
      commands := { m.commands with progress := some (.engineReset slots.length false) } })) ∧
  (∀ (s m : State) (freed : Nat), m = s.caughtUp → m.commands.progress = some (.engineReset freed false) →
    (∀ w, m.engine.work = some w → ∃ cursor, w.job = .clear cursor) →
    exec .engineResetScanAssembler s = .next (State.settle { m with
      assembler := ⟨[], none, none⟩
      engine := { m.engine with list := m.engine.list.filter (fun i => match i with
        | .clear _ => true
        | .process _ => false) }
      commands := { m.commands with progress := some (.engineReset freed true) } })) ∧
  (∀ (s m : State) (freed : Nat) (q : QueueEntry) (rest : List QueueEntry), m = s.caughtUp →
    m.commands.progress = some (.engineReset freed true) → m.commands.queue = q :: rest →
    exec .engineResetDone s = .next (State.settle (State.endCommand
      (State.submit (if m.mode = .idle then m else m.enterIdle .engineReset) .engineResetDone q.tag.toNat none freed) .ok))) ∧
  (∀ (s : State) (slot code : Nat) (reason : DiscardReason), (reason, code) ∈ [(.timeout, 1), (.released, 2), (.reset, 3)] →
    s.discardSlot slot reason = (s.drqInUse.filter (fun p => p.2.slot == slot)).foldl (fun y p => State.submit { y with
      drq := { y.drq with entries := y.drq.entries.set p.1 none, fetchOrder := y.drq.fetchOrder.filter (· != p.1) }
      port := { y.port with fetchFor := if y.port.fetchFor = some p.1 then none else y.port.fetchFor } }
      .readDiscarded p.2.address (some p.2.requester) code) s)

/-! ### Sweeps -/

/-- NOTICE_SWEEP: the first check that fails gives the status, and the command then has no other effect (`o` holds the operands, `d` is the
source point's directory entry). One that passes fills the lowest free entry, raises the slot's notices and a stored pilot's use count,
appends the CLEAR item, and starts the Stall Timer when no other sweep is in a correlation state. -/
def Obligations.NoticeSweep : Prop :=
  (∀ (s m : State) (q : QueueEntry) (o : NoticeOperands) (i : Nat) (d : DirEntry), m = s.settle → m.heads .noticeSweep q →
    o = q.noticeOperands → d = m.slotEntry i →
    (o.tag = 0 ∨ o.sourcePoint = 0 ∨ 2 ^ 48 - 1 < o.start ∨ o.pilot = .neither ∨ (∃ id, o.pilot = .stored id ∧ 15 < id) ∨
        (∃ aux l, o.pilot = .captured aux l ∧ (m.geometry.c ≤ aux ∨ l < 64 ∨ m.geometry.lMax < l)) →
      exec .noticeSweep s = .next (State.settle (m.endCommand .badOperand))) ∧
    (1 ≤ o.tag → 1 ≤ o.sourcePoint → o.start ≤ 2 ^ 48 - 1 →
      ((∃ id, o.pilot = .stored id ∧ id ≤ 15) ∨
        ∃ aux l, o.pilot = .captured aux l ∧ aux < m.geometry.c ∧ 64 ≤ l ∧ l ≤ m.geometry.lMax) →
      (m.findTag o.tag ≠ none → exec .noticeSweep s = .next (State.settle (m.endCommand .duplicate))) ∧
      (m.findTag o.tag = none → m.findSourcePoint o.sourcePoint = none →
        exec .noticeSweep s = .next (State.settle (m.endCommand .unknown))) ∧
      (m.findTag o.tag = none → m.findSourcePoint o.sourcePoint = some i →
        (d.state ≠ .opened → exec .noticeSweep s = .next (State.settle (m.endCommand .badState))) ∧
        (d.state = .opened → d.notices = d.foldTarget → exec .noticeSweep s = .next (State.settle (m.endCommand .noRoom))) ∧
        (d.state = .opened → d.notices ≠ d.foldTarget →
          ((∃ id, o.pilot = .stored id ∧ (m.pilotEntry id).state ≠ .ready) →
            exec .noticeSweep s = .next (State.settle (m.endCommand .notReady))) ∧
          ((∀ id, o.pilot = .stored id → (m.pilotEntry id).state = .ready) →
            ((∃ n, m.assembler.newest = some n ∧ o.start ≤ n) →
              exec .noticeSweep s = .next (State.settle (m.endCommand .late))) ∧
            ((∀ n, m.assembler.newest = some n → n < o.start) → none ∉ m.sweeps.table →
              exec .noticeSweep s = .next (State.settle (m.endCommand .noRoom)))))))) ∧
  (∀ (s m : State) (q : QueueEntry) (o : NoticeOperands) (i e length : Nat) (d : DirEntry) (pilot : PilotRef)
    (pilots : List PilotEntry), m = s.settle → m.heads .noticeSweep q → o = q.noticeOperands → d = m.slotEntry i →
    1 ≤ o.tag → 1 ≤ o.sourcePoint → o.start ≤ 2 ^ 48 - 1 →
    ((∃ id, o.pilot = .stored id ∧ id ≤ 15 ∧ (m.pilotEntry id).state = .ready ∧ pilot = .stored id ∧
        length = (m.pilotEntry id).length ∧
        pilots = m.pilots.set id { m.pilotEntry id with useCount := (m.pilotEntry id).useCount + 1 }) ∨
      ∃ aux, o.pilot = .captured aux length ∧ aux < m.geometry.c ∧ 64 ≤ length ∧ length ≤ m.geometry.lMax ∧
        pilot = .captured aux ∧ pilots = m.pilots) →
    m.findTag o.tag = none → m.findSourcePoint o.sourcePoint = some i → d.state = .opened → d.notices ≠ d.foldTarget →
    (∀ n, m.assembler.newest = some n → n < o.start) →
    m.sweeps.table[e]? = some none → (∀ j < e, m.sweeps.table[j]? ≠ some none) →
    exec .noticeSweep s = .next (State.settle (State.endCommand { m with
      sweeps := { m.sweeps with
        table := m.sweeps.table.set e (some ⟨o.tag, o.sourcePoint, i, o.start, pilot, length, d.lags, d.first, d.last, d.gapFirst,
          d.gapLast, none, none, [], .noticed, none, false, none, 0⟩)
        stallTimer := if m.anyCorrelation = true then m.sweeps.stallTimer else some m.sweeps.stallPeriod }
      directory := m.directory.set i { d with notices := d.notices + 1 }
      reports := { m.reports with stale := m.reports.stale.set i true }
      pilots := pilots
      engine := { m.engine with list := m.engine.list ++ [.clear e] } } .ok)))

/-- What leaving the correlation states does (a transfer of the sweep's work that still waits behind an abandoned one is not presented),
and CANCEL_SWEEP: UNKNOWN for a tag no live sweep holds, TOO_LATE for a sweep that has left already, else the sweep leaves as CANCELLED. -/
def Obligations.SweepLeavesCorrelation : Prop :=
  (∀ (s : State) (e : Nat) (w : Sweep) (outcome : SweepOutcome), s.sweep? e = some w →
    s.leaveCorrelation e outcome = { s with
      sweeps := { s.sweeps with
        table := s.sweeps.table.set e (some { w with outcome := some outcome, state := .foldWait })
        stallTimer := if s.liveSweeps.any (fun p => p.1 != e && p.2.state.correlation) then s.sweeps.stallTimer else none }
      engine := ⟨s.engine.list.filter (· != .clear e),
        s.engine.work.map (fun x => if x.entry = e then { x with left := true } else x)⟩
      port := { s.port with engine := { s.port.engine with
        next := if s.engine.work.any (fun x => x.entry == e) = true then none else s.port.engine.next } }
      pilots := (match w.pilot with
        | .stored id => s.pilots.set id { s.pilotEntry id with useCount := (s.pilotEntry id).useCount - 1 }
        | .captured _ => s.pilots)
      stackUnit := { s.stackUnit with list := s.stackUnit.list ++ [.fold e] } }) ∧
  (∀ (s m : State) (q : QueueEntry), m = s.settle → m.heads .cancelSweep q →
    (m.findTag (q.low 1) = none → exec .cancelSweep s = .next (State.settle (m.endCommand .unknown))) ∧
    (∀ e w, m.findTag (q.low 1) = some (e, w) →
      (w.state = .foldWait ∨ w.state = .folding → exec .cancelSweep s = .next (State.settle (m.endCommand .tooLate))) ∧
      (w.state = .noticed ∨ w.state = .correlating ∨ w.state = .stalled →
        exec .cancelSweep s = .next (State.settle ((m.leaveCorrelation e .cancelled).endCommand .ok)))))

/-! ### Pilots, channels, stacks and modes -/

/-- DEFINE_PILOT and REMOVE_PILOT: the checks in order, the entry taken for its check, and the entry emptied.
What stands in the fields of an EMPTY entry is the model's (log 25). -/
def Obligations.PilotCommands : Prop :=
  ∀ (s m : State) (q : QueueEntry) (id a l : Nat) (p : PilotEntry), m = s.settle → id = q.whole 1 → a = q.wide 2 → l = q.whole 4 →
    p = m.pilotEntry id →
    (m.heads .definePilot q →
      (15 < id ∨ a % 4 ≠ 0 ∨ l < 64 ∨ m.geometry.lMax < l →
        exec .definePilot s = .next (State.settle (m.endCommand .badOperand))) ∧
      (id ≤ 15 ∧ a % 4 = 0 ∧ 64 ≤ l ∧ l ≤ m.geometry.lMax →
        (p.useCount ≠ 0 ∨ p.state = .checking → exec .definePilot s = .next (State.settle (m.endCommand .inUse))) ∧
        (p.useCount = 0 → p.state ≠ .checking →
          ((∀ w, m.windows.pilot = some w → a < w.base ∨ w.limit < a + 4 * ((l + 1) / 2) - 1) →
            exec .definePilot s = .next (State.settle (m.endCommand .outOfWindow))) ∧
          (∀ w, m.windows.pilot = some w → w.base ≤ a → a + 4 * ((l + 1) / 2) - 1 ≤ w.limit →
            exec .definePilot s = .next (State.settle { m with
              pilots := m.pilots.set id { p with state := .checking, address := a, length := l, checksum := q.operand 5 }
              commands := { m.commands with progress := some (.definePilot id m.pwb.length false 0 0) } }))))) ∧
    (m.heads .removePilot q →
      (15 < id → exec .removePilot s = .next (State.settle (m.endCommand .badOperand))) ∧
      (id ≤ 15 → p.useCount ≠ 0 → exec .removePilot s = .next (State.settle (m.endCommand .inUse))) ∧
      (id ≤ 15 → p.useCount = 0 → exec .removePilot s = .next (State.settle (State.endCommand
        { m with pilots := m.pilots.set id { p with state := .empty } } .ok))))

/-- MUTE_CHANNEL and UNMUTE_CHANNEL, in every condition of the channel, and the reach of a mute: the channel leaves the active set of
every live sweep in CORRELATING, STALLED or FOLD_WAIT. -/
def Obligations.ChannelCommands : Prop :=
  (∀ (s m : State) (q : QueueEntry) (c : Nat) (x : Channel), m = s.settle → c = q.whole 1 → x = m.channel c →
    (m.heads .muteChannel q →
      (m.geometry.c ≤ c → exec .muteChannel s = .next (State.settle (m.endCommand .badOperand))) ∧
      (c < m.geometry.c → x.condition = .muted → exec .muteChannel s = .next (State.settle (m.endCommand .ok))) ∧
      (c < m.geometry.c → x.condition ≠ .muted → exec .muteChannel s = .next (State.settle (State.endCommand (State.muteSweeps
        (State.submit { m with channels := m.channels.set c ⟨x.score, .muted⟩ } .channelMuted c none 2) c) .ok)))) ∧
    (m.heads .unmuteChannel q →
      (m.geometry.c ≤ c → exec .unmuteChannel s = .next (State.settle (m.endCommand .badOperand))) ∧
      (c < m.geometry.c → x.condition = .good → exec .unmuteChannel s = .next (State.settle (State.endCommand
        { m with channels := m.channels.set c ⟨0, .good⟩ } .ok))) ∧
      (c < m.geometry.c → x.condition ≠ .good → exec .unmuteChannel s = .next (State.settle (State.endCommand (State.submit
        { m with channels := m.channels.set c ⟨0, .good⟩ } .channelClear c none 2) .ok))))) ∧
  (∀ (s : State) (c : Nat), s.muteSweeps c = { s with sweeps := { s.sweeps with table := s.sweeps.table.map (Option.map (fun w =>
    if w.state = .correlating ∨ w.state = .stalled ∨ w.state = .foldWait
    then { w with activeSet := w.activeSet.map (fun a => a.filter (· != c)) } else w)) } })

/-- OPEN_SOURCE_POINT and SLOT_CLAIM: the checks in order; the lowest FREE slot is claimed at once, or later by SLOT_CLAIM, when the
buffer holds no write to it. `d` is the entry that the claim makes.
That the claim may be made in the same event is the model's (log 8). -/
def Obligations.SourcePointOpened : Prop :=
  ∀ (s m : State) (q : QueueEntry) (o : OpenOperands) (i : Nat) (d : DirEntry) (w : StackWindow), m = s.settle → o = q.openOperands →
    d = ⟨.opened, o.sourcePoint, o.foldTarget, o.lags, o.first, o.last, o.gapFirst, o.gapLast, o.editLimit, 0, false, false, [],
      List.replicate m.geometry.c 0⟩ →
    (m.heads .openSourcePoint q →
      (o.sourcePoint = 0 ∨ o.foldTarget < 1 ∨ 32 < o.foldTarget ∨ o.lags < 1 ∨ m.geometry.kMax < o.lags ∨
          m.geometry.c ≤ o.first ∨ m.geometry.c ≤ o.last ∨ m.geometry.c ≤ o.gapFirst ∨ m.geometry.c ≤ o.gapLast →
        exec .openSourcePoint s = .next (State.settle (m.endCommand .badOperand))) ∧
      (1 ≤ o.sourcePoint ∧ 1 ≤ o.foldTarget ∧ o.foldTarget ≤ 32 ∧ 1 ≤ o.lags ∧ o.lags ≤ m.geometry.kMax ∧
          o.first < m.geometry.c ∧ o.last < m.geometry.c ∧ o.gapFirst < m.geometry.c ∧ o.gapLast < m.geometry.c →
        ((∃ x ∈ m.directory, x.state ≠ .free ∧ x.sourcePoint = o.sourcePoint) →
          exec .openSourcePoint s = .next (State.settle (m.endCommand .duplicate))) ∧
        ((∀ x ∈ m.directory, x.state ≠ .free → x.sourcePoint ≠ o.sourcePoint) →
          (m.windows.stack = none ∨ m.windows.stack = some w ∧ (∀ x ∈ m.directory.take w.slots, x.state ≠ .free) →
            exec .openSourcePoint s = .next (State.settle (m.endCommand .noRoom))) ∧
          (m.windows.stack = some w → i < w.slots → i < m.directory.length → (m.slotEntry i).state = .free →
            (∀ j < i, (m.slotEntry j).state ≠ .free) →
            ((∀ x ∈ m.pwb, x.range.meets (m.slotRange i) = false) →
              exec .openSourcePoint s = .next (State.settle (State.endCommand { m with
                directory := m.directory.set i d
                reports := { m.reports with stale := m.reports.stale.set i true }
                stackUnit := { m.stackUnit with list := m.stackUnit.list ++ [.clear i] } } .ok))) ∧
            ((∃ x ∈ m.pwb, x.range.meets (m.slotRange i) = true) →
              exec .openSourcePoint s = .next (State.settle
                { m with commands := { m.commands with progress := some (.openSourcePoint i) } })))))) ∧
    (∀ rest, m.commands.progress = some (.openSourcePoint i) → m.commands.queue = q :: rest →
      (∀ x ∈ m.pwb, x.range.meets (m.slotRange i) = false) →
      exec .slotClaim s = .next (State.settle (State.endCommand { m with
        directory := m.directory.set i d
        reports := { m.reports with stale := m.reports.stale.set i true }
        stackUnit := { m.stackUnit with list := m.stackUnit.list ++ [.clear i] } } .ok)))

/-- CLOSE_SOURCE_POINT lowers the fold target of an OPEN slot to its notices and applies the completion test; RELEASE_STACK frees a SEALED
slot and its deferred reads; a source point in another state is BAD_STATE, one that no slot holds UNKNOWN. -/
def Obligations.SourcePointClosedAndReleased : Prop :=
  ∀ (s m : State) (q : QueueEntry) (i : Nat) (d : DirEntry), m = s.settle →
    (∀ k, (k = .closeSourcePoint ∨ k = .releaseStack) → m.heads k q →
      (∀ x ∈ m.directory, x.state ≠ .free → x.sourcePoint ≠ q.whole 1) →
      exec k.row s = .next (State.settle (m.endCommand .unknown))) ∧
    (m.findSourcePoint (q.whole 1) = some i → d = m.slotEntry i →
      (m.heads .closeSourcePoint q →
        (d.state ≠ .opened → exec .closeSourcePoint s = .next (State.settle (m.endCommand .badState))) ∧
        (d.state = .opened → exec .closeSourcePoint s = .next (State.settle (State.endCommand (State.completeTest { m with
          directory := m.directory.set i { d with foldTarget := d.notices }
          reports := { m.reports with stale := m.reports.stale.set i true } } i) .ok)))) ∧
      (m.heads .releaseStack q →
        (d.state ≠ .sealed → exec .releaseStack s = .next (State.settle (m.endCommand .badState))) ∧
        (d.state = .sealed → exec .releaseStack s = .next (State.settle (State.endCommand (State.discardSlot { m with
          directory := m.directory.set i ⟨.free, 0, 0, 0, 0, 0, 0, 0, 0, 0, false, false, [], []⟩
          reports := { m.reports with stale := m.reports.stale.set i true } } i .released) .ok)))))

/-- SET_MODE in every mode and for every target: BAD_OPERAND out of range; NOT_READY without the geometry and the RAW, STACK and SCRATCH
windows; else the modes it leaves, the abort of the sweeps in correlation states, and the MODE_CHANGED report. -/
def Obligations.ModeSet : Prop :=
  ∀ (s m x : State) (q : QueueEntry) (target abort : Nat), m = s.settle → m.heads .setMode q → target = q.whole 1 →
    abort = q.whole 2 →
    x = (if abort = 1 then (m.entriesWhere (fun w => w.state.correlation)).foldl (fun y e => y.leaveCorrelation e .modeAborted) m
      else m) →
    (target ≠ 1 ∧ target ≠ 2 ∨ 1 < abort → exec .setMode s = .next (State.settle (m.endCommand .badOperand))) ∧
    (target = 1 ∨ target = 2 → abort ≤ 1 →
      (m.mode = .idle → target = 2 →
        (m.geometry.c = 0 ∨ m.windows.raw = none ∨ m.windows.stack = none ∨ m.windows.scratch = none →
          exec .setMode s = .next (State.settle (m.endCommand .notReady))) ∧
        (m.geometry.c ≠ 0 → m.windows.raw ≠ none → m.windows.stack ≠ none → m.windows.scratch ≠ none →
          exec .setMode s = .next (State.settle (State.endCommand (State.submit
            { m with mode := .acquire, requestedMode := .acquire } .modeChanged 1 none (2 + 256)) .ok)))) ∧
      (m.mode = .idle ∧ target = 1 ∨ m.mode = .acquire ∧ target = 2 →
        exec .setMode s = .next (State.settle (m.endCommand .ok))) ∧
      (m.mode = .acquire → target = 1 →
        (x.liveSweeps = [] → exec .setMode s = .next (State.settle ((x.enterIdle .setMode).endCommand .ok))) ∧
        (x.liveSweeps ≠ [] → exec .setMode s = .next (State.settle (State.endCommand (State.submit
          { x with mode := .draining, requestedMode := .idle } .modeChanged 2 none (3 + 256)) .ok)))) ∧
      (m.mode = .draining → target = 2 → exec .setMode s = .next (State.settle (State.endCommand (State.submit
        { m with mode := .acquire, requestedMode := .acquire } .modeChanged 3 none (2 + 256)) .ok))) ∧
      (m.mode = .draining → target = 1 → exec .setMode s = .next (State.settle (x.endCommand .ok))))

/-! ### Invariants that every step keeps -/

/-- The DRAM's words stay in canonical form, and the Posted Write Buffer holds at most 32 writes, none of them malformed.
The canonical form of memory is the model's (log 9). -/
def Obligations.StepKeepsMemoryAndBuffer : Prop :=
  (∀ s t : State, s.memoryOk → step s = .next t → t.memoryOk) ∧
  (∀ s t : State, s.bufferOk → step s = .next t → t.bufferOk)

/-- The requested mode agrees with the mode, and Scan Staging holds at most four scans, at most two of them FILLING, in rising scan number,
none above the newest, and no two FILLING scans of one slot. -/
def Obligations.StepKeepsModesAndStaging : Prop :=
  (∀ s t : State, s.modesOk → step s = .next t → t.modesOk) ∧
  (∀ s t : State, s.stagingOk → step s = .next t → t.stagingOk)

/-- Every table keeps its size, and the geometry, the four windows (and the one that a waiting SET_WINDOW asks for), the slices, the two
periods and the ring size stay in their ranges. -/
def Obligations.StepKeepsTablesAndSettings : Prop :=
  ∀ s t : State, s.tablesOk → s.settingsOk → step s = .next t → t.tablesOk ∧ t.settingsOk

/-- The state after reset, and the state after a line reset of any state, meet every invariant that reset establishes. -/
def Obligations.InvariantsAtReset : Prop :=
  (State.reset.memoryOk ∧ State.reset.bufferOk ∧ State.reset.modesOk ∧ State.reset.stagingOk ∧ State.reset.tablesOk ∧
    State.reset.settingsOk) ∧
  ∀ (b : BitVec 4) (s t : State), exec (.lineReset b) s = .next t →
    t.bufferOk ∧ t.modesOk ∧ t.stagingOk ∧ t.tablesOk ∧ t.settingsOk ∧ t.memory = s.memory ∧ t.cbase = b

end Statements
end

