-- ==== Sys2Proof/Laws/Reports.lean ====
section
/-! SUPPORT. What the Report Unit's operations leave alone: the ring, the indices, the client's write and the stale marks under a
submission; all but the hand order, the client's write and the stale marks when a write is presented. -/

namespace Sys2Proof.Machine

/-- The fields of the Report Unit that a submission leaves alone. -/
abbrev Reports.fixed (r : Reports) : Nat × Bool × Nat × Nat × Option ReportOut × Bool × Bool × List Bool :=
  (r.size, r.enable, r.producer, r.consumer, r.out, r.producerDue, r.producerOk, r.stale)

@[simp] theorem Reports.hand_fixed (r : Reports) (h : List Handed) : (r.hand h).fixed = r.fixed := rfl

@[simp] theorem Reports.loseRecord_fixed (r : Reports) (x : Record) : (r.loseRecord x).fixed = r.fixed := rfl

theorem Reports.flushKinds_fixed (newest : Option Nat) : ∀ (ps : List PendingKind) (r : Reports),
    (Reports.flushKinds newest ps r).fixed = r.fixed
  | [], r => rfl
  | p :: ps, r => by
    unfold Reports.flushKinds
    split
    · rw [Reports.flushKinds_fixed newest ps]
      rfl
    · rfl

theorem Reports.flush_fixed (r : Reports) (newest : Option Nat) : (r.flush newest).fixed = r.fixed := Reports.flushKinds_fixed _ _ _

/-- A submission changes the hand order and the pending set alone. -/
theorem Reports.submit_fixed (r : Reports) (newest : Option Nat) (k : ReportKind) (n : Nat) (q : Option Requester) (x : Nat) :
    (r.submit newest k n q x).fixed = r.fixed := by
  unfold Reports.submit
  simp only
  split
  · rw [Reports.hand_fixed, Reports.flush_fixed]
  · rw [Reports.loseRecord_fixed, Reports.flush_fixed]

@[simp] theorem Reports.submit_stale (r : Reports) (newest : Option Nat) (k : ReportKind) (n : Nat) (q : Option Requester) (x : Nat) :
    (r.submit newest k n q x).stale = r.stale := congrArg (fun f => f.2.2.2.2.2.2.2) (Reports.submit_fixed r newest k n q x)

@[simp] theorem Reports.hand_stale (r : Reports) (h : List Handed) : (r.hand h).stale = r.stale := rfl

@[simp] theorem Reports.flush_stale (r : Reports) (newest : Option Nat) : (r.flush newest).stale = r.stale :=
  congrArg (fun f => f.2.2.2.2.2.2.2) (Reports.flush_fixed r newest)

/-- A flush that finds nothing pending changes nothing. -/
theorem Reports.flush_empty (r : Reports) (newest : Option Nat) (h : r.pendingKinds = []) : r.flush newest = r := by
  cases r
  simp_all [Reports.flush, Reports.flushKinds]

/-- A record handed joins the record queue. -/
@[simp] theorem Reports.recordQueue_handRecord (r : Reports) (x : Record) : (r.hand [.record x]).recordQueue = r.recordQueue ++ [x] := by
  simp [Reports.recordQueue, Reports.hand, Reports.recordOut]

/-- What is pending or queued by a flush, taken together, is the same after the flush of the kinds given. -/
theorem Reports.flushKinds_open (newest : Option Nat) : ∀ (ps : List PendingKind) (r : Reports),
    (!(Reports.flushKinds newest ps r).pendingKinds.isEmpty || (Reports.flushKinds newest ps r).flushQueued) =
      (!ps.isEmpty || r.flushQueued)
  | [], r => rfl
  | p :: ps, r => by
    unfold Reports.flushKinds
    split
    · rw [Reports.flushKinds_open newest ps]
      simp [Reports.flushQueued, PendingKind.coalesced]
    · rfl

/-- A flush leaves ATTN as it is (R179). -/
@[simp] theorem Reports.flush_attn (r : Reports) (newest : Option Nat) : (r.flush newest).attn = r.attn := by
  have h := Reports.flush_fixed r newest
  have k := Reports.flushKinds_open newest r.pendingKinds r
  simp only [Reports.fixed, Prod.mk.injEq] at h
  unfold Reports.attn
  rw [h.2.1, h.2.2.1, h.2.2.2.1, Bool.or_assoc, Bool.or_assoc]
  exact congrArg (fun b => r.enable && (r.producer != r.consumer || b)) k

/-- The fields that presenting a write leaves alone. -/
abbrev Reports.ring (r : Reports) : Nat × Bool × Nat × Nat × List PendingKind × Bool × Nat :=
  (r.size, r.enable, r.producer, r.consumer, r.pendingKinds, r.producerOk, r.stale.length)

theorem Reports.nextWrite_ring (r q : Reports) (w : ReportWrite) (h : r.nextWrite = some (w, q)) : q.ring = r.ring := by
  unfold Reports.nextWrite at h
  simp only at h
  split at h
  · cases h
    rfl
  · split at h
    · split at h <;> (cases h; simp [Reports.ring])
    · cases h
      rfl
    · cases h
      rfl
    · cases hl : r.lowestStale with
      | none => simp [hl] at h
      | some i =>
        simp only [hl, Option.map_some, Option.some.injEq, Prod.mk.injEq] at h
        obtain ⟨_, rfl⟩ := h
        simp [Reports.ring]

/-- Presenting a write leaves the ring, the indices and the pending set alone. -/
theorem State.presentReport_ring (s : State) : s.presentReport.2.ring = s.reports.ring := by
  unfold State.presentReport
  split
  · rfl
  · split
    · rfl
    · rename_i w r h
      have := Reports.nextWrite_ring s.reports r w h
      simpa [Reports.ring] using this

@[simp] theorem State.presentReport_staleLength (s : State) : s.presentReport.2.stale.length = s.reports.stale.length :=
  congrArg (fun f => f.2.2.2.2.2.2) (State.presentReport_ring s)

theorem Reports.foldl_loseRecord_fixed (l : List Record) : ∀ r : Reports, (l.foldl Reports.loseRecord r).fixed = r.fixed := by
  induction l with
  | nil => intro r; rfl
  | cons x xs ih => intro r; rw [List.foldl_cons, ih, Reports.loseRecord_fixed]

@[simp] theorem Reports.withdraw_stale (r : Reports) : r.withdraw.stale = r.stale :=
  congrArg (fun f => f.2.2.2.2.2.2.2) (Reports.foldl_loseRecord_fixed r.recordQueue r)

@[simp] theorem Reports.setRing_stale (r : Reports) (n : Nat) (e : Bool) (newest : Option Nat) : (r.setRing n e newest).stale = r.stale := by
  unfold Reports.setRing
  simp only
  split <;> simp [Reports.hand]

end Sys2Proof.Machine
end

