-- ==== Sys2Proof/Laws/State.lean ====
section
/-! SUPPORT. One lemma for each field of State under each primitive update, so that no later proof unfolds a record update. -/

namespace Sys2Proof.Machine

/-! ### setSweep -/

@[simp] theorem State.setSweep_geometry (s : State) (e : Nat) (w : Option Sweep) : (s.setSweep e w).geometry = s.geometry := rfl
@[simp] theorem State.setSweep_windows (s : State) (e : Nat) (w : Option Sweep) : (s.setSweep e w).windows = s.windows := rfl
@[simp] theorem State.setSweep_cbase (s : State) (e : Nat) (w : Option Sweep) : (s.setSweep e w).cbase = s.cbase := rfl
@[simp] theorem State.setSweep_mode (s : State) (e : Nat) (w : Option Sweep) : (s.setSweep e w).mode = s.mode := rfl
@[simp] theorem State.setSweep_requestedMode (s : State) (e : Nat) (w : Option Sweep) : (s.setSweep e w).requestedMode = s.requestedMode := rfl
@[simp] theorem State.setSweep_assembler (s : State) (e : Nat) (w : Option Sweep) : (s.setSweep e w).assembler = s.assembler := rfl
@[simp] theorem State.setSweep_sweeps (s : State) (e : Nat) (w : Option Sweep) : (s.setSweep e w).sweeps = { s.sweeps with table := s.sweeps.table.set e w } := rfl
@[simp] theorem State.setSweep_engine (s : State) (e : Nat) (w : Option Sweep) : (s.setSweep e w).engine = s.engine := rfl
@[simp] theorem State.setSweep_pilots (s : State) (e : Nat) (w : Option Sweep) : (s.setSweep e w).pilots = s.pilots := rfl
@[simp] theorem State.setSweep_channels (s : State) (e : Nat) (w : Option Sweep) : (s.setSweep e w).channels = s.channels := rfl
@[simp] theorem State.setSweep_directory (s : State) (e : Nat) (w : Option Sweep) : (s.setSweep e w).directory = s.directory := rfl
@[simp] theorem State.setSweep_stackUnit (s : State) (e : Nat) (w : Option Sweep) : (s.setSweep e w).stackUnit = s.stackUnit := rfl
@[simp] theorem State.setSweep_drq (s : State) (e : Nat) (w : Option Sweep) : (s.setSweep e w).drq = s.drq := rfl
@[simp] theorem State.setSweep_pwb (s : State) (e : Nat) (w : Option Sweep) : (s.setSweep e w).pwb = s.pwb := rfl
@[simp] theorem State.setSweep_held (s : State) (e : Nat) (w : Option Sweep) : (s.setSweep e w).held = s.held := rfl
@[simp] theorem State.setSweep_answer (s : State) (e : Nat) (w : Option Sweep) : (s.setSweep e w).answer = s.answer := rfl
@[simp] theorem State.setSweep_port (s : State) (e : Nat) (w : Option Sweep) : (s.setSweep e w).port = s.port := rfl
@[simp] theorem State.setSweep_commands (s : State) (e : Nat) (w : Option Sweep) : (s.setSweep e w).commands = s.commands := rfl
@[simp] theorem State.setSweep_reports (s : State) (e : Nat) (w : Option Sweep) : (s.setSweep e w).reports = s.reports := rfl
@[simp] theorem State.setSweep_memory (s : State) (e : Nat) (w : Option Sweep) : (s.setSweep e w).memory = s.memory := rfl
@[simp] theorem State.setSweep_pending (s : State) (e : Nat) (w : Option Sweep) : (s.setSweep e w).pending = s.pending := rfl

/-! ### setSlot -/

@[simp] theorem State.setSlot_geometry (s : State) (i : Nat) (d : DirEntry) : (s.setSlot i d).geometry = s.geometry := rfl
@[simp] theorem State.setSlot_windows (s : State) (i : Nat) (d : DirEntry) : (s.setSlot i d).windows = s.windows := rfl
@[simp] theorem State.setSlot_cbase (s : State) (i : Nat) (d : DirEntry) : (s.setSlot i d).cbase = s.cbase := rfl
@[simp] theorem State.setSlot_mode (s : State) (i : Nat) (d : DirEntry) : (s.setSlot i d).mode = s.mode := rfl
@[simp] theorem State.setSlot_requestedMode (s : State) (i : Nat) (d : DirEntry) : (s.setSlot i d).requestedMode = s.requestedMode := rfl
@[simp] theorem State.setSlot_assembler (s : State) (i : Nat) (d : DirEntry) : (s.setSlot i d).assembler = s.assembler := rfl
@[simp] theorem State.setSlot_sweeps (s : State) (i : Nat) (d : DirEntry) : (s.setSlot i d).sweeps = s.sweeps := rfl
@[simp] theorem State.setSlot_engine (s : State) (i : Nat) (d : DirEntry) : (s.setSlot i d).engine = s.engine := rfl
@[simp] theorem State.setSlot_pilots (s : State) (i : Nat) (d : DirEntry) : (s.setSlot i d).pilots = s.pilots := rfl
@[simp] theorem State.setSlot_channels (s : State) (i : Nat) (d : DirEntry) : (s.setSlot i d).channels = s.channels := rfl
@[simp] theorem State.setSlot_directory (s : State) (i : Nat) (d : DirEntry) : (s.setSlot i d).directory = s.directory.set i d := rfl
@[simp] theorem State.setSlot_stackUnit (s : State) (i : Nat) (d : DirEntry) : (s.setSlot i d).stackUnit = s.stackUnit := rfl
@[simp] theorem State.setSlot_drq (s : State) (i : Nat) (d : DirEntry) : (s.setSlot i d).drq = s.drq := rfl
@[simp] theorem State.setSlot_pwb (s : State) (i : Nat) (d : DirEntry) : (s.setSlot i d).pwb = s.pwb := rfl
@[simp] theorem State.setSlot_held (s : State) (i : Nat) (d : DirEntry) : (s.setSlot i d).held = s.held := rfl
@[simp] theorem State.setSlot_answer (s : State) (i : Nat) (d : DirEntry) : (s.setSlot i d).answer = s.answer := rfl
@[simp] theorem State.setSlot_port (s : State) (i : Nat) (d : DirEntry) : (s.setSlot i d).port = s.port := rfl
@[simp] theorem State.setSlot_commands (s : State) (i : Nat) (d : DirEntry) : (s.setSlot i d).commands = s.commands := rfl
@[simp] theorem State.setSlot_reports (s : State) (i : Nat) (d : DirEntry) : (s.setSlot i d).reports = { s.reports with stale := s.reports.stale.set i true } := rfl
@[simp] theorem State.setSlot_memory (s : State) (i : Nat) (d : DirEntry) : (s.setSlot i d).memory = s.memory := rfl
@[simp] theorem State.setSlot_pending (s : State) (i : Nat) (d : DirEntry) : (s.setSlot i d).pending = s.pending := rfl

/-! ### setPilot -/

@[simp] theorem State.setPilot_geometry (s : State) (i : Nat) (p : PilotEntry) : (s.setPilot i p).geometry = s.geometry := rfl
@[simp] theorem State.setPilot_windows (s : State) (i : Nat) (p : PilotEntry) : (s.setPilot i p).windows = s.windows := rfl
@[simp] theorem State.setPilot_cbase (s : State) (i : Nat) (p : PilotEntry) : (s.setPilot i p).cbase = s.cbase := rfl
@[simp] theorem State.setPilot_mode (s : State) (i : Nat) (p : PilotEntry) : (s.setPilot i p).mode = s.mode := rfl
@[simp] theorem State.setPilot_requestedMode (s : State) (i : Nat) (p : PilotEntry) : (s.setPilot i p).requestedMode = s.requestedMode := rfl
@[simp] theorem State.setPilot_assembler (s : State) (i : Nat) (p : PilotEntry) : (s.setPilot i p).assembler = s.assembler := rfl
@[simp] theorem State.setPilot_sweeps (s : State) (i : Nat) (p : PilotEntry) : (s.setPilot i p).sweeps = s.sweeps := rfl
@[simp] theorem State.setPilot_engine (s : State) (i : Nat) (p : PilotEntry) : (s.setPilot i p).engine = s.engine := rfl
@[simp] theorem State.setPilot_pilots (s : State) (i : Nat) (p : PilotEntry) : (s.setPilot i p).pilots = s.pilots.set i p := rfl
@[simp] theorem State.setPilot_channels (s : State) (i : Nat) (p : PilotEntry) : (s.setPilot i p).channels = s.channels := rfl
@[simp] theorem State.setPilot_directory (s : State) (i : Nat) (p : PilotEntry) : (s.setPilot i p).directory = s.directory := rfl
@[simp] theorem State.setPilot_stackUnit (s : State) (i : Nat) (p : PilotEntry) : (s.setPilot i p).stackUnit = s.stackUnit := rfl
@[simp] theorem State.setPilot_drq (s : State) (i : Nat) (p : PilotEntry) : (s.setPilot i p).drq = s.drq := rfl
@[simp] theorem State.setPilot_pwb (s : State) (i : Nat) (p : PilotEntry) : (s.setPilot i p).pwb = s.pwb := rfl
@[simp] theorem State.setPilot_held (s : State) (i : Nat) (p : PilotEntry) : (s.setPilot i p).held = s.held := rfl
@[simp] theorem State.setPilot_answer (s : State) (i : Nat) (p : PilotEntry) : (s.setPilot i p).answer = s.answer := rfl
@[simp] theorem State.setPilot_port (s : State) (i : Nat) (p : PilotEntry) : (s.setPilot i p).port = s.port := rfl
@[simp] theorem State.setPilot_commands (s : State) (i : Nat) (p : PilotEntry) : (s.setPilot i p).commands = s.commands := rfl
@[simp] theorem State.setPilot_reports (s : State) (i : Nat) (p : PilotEntry) : (s.setPilot i p).reports = s.reports := rfl
@[simp] theorem State.setPilot_memory (s : State) (i : Nat) (p : PilotEntry) : (s.setPilot i p).memory = s.memory := rfl
@[simp] theorem State.setPilot_pending (s : State) (i : Nat) (p : PilotEntry) : (s.setPilot i p).pending = s.pending := rfl

/-! ### setChannel -/

@[simp] theorem State.setChannel_geometry (s : State) (c : Nat) (x : Channel) : (s.setChannel c x).geometry = s.geometry := rfl
@[simp] theorem State.setChannel_windows (s : State) (c : Nat) (x : Channel) : (s.setChannel c x).windows = s.windows := rfl
@[simp] theorem State.setChannel_cbase (s : State) (c : Nat) (x : Channel) : (s.setChannel c x).cbase = s.cbase := rfl
@[simp] theorem State.setChannel_mode (s : State) (c : Nat) (x : Channel) : (s.setChannel c x).mode = s.mode := rfl
@[simp] theorem State.setChannel_requestedMode (s : State) (c : Nat) (x : Channel) : (s.setChannel c x).requestedMode = s.requestedMode := rfl
@[simp] theorem State.setChannel_assembler (s : State) (c : Nat) (x : Channel) : (s.setChannel c x).assembler = s.assembler := rfl
@[simp] theorem State.setChannel_sweeps (s : State) (c : Nat) (x : Channel) : (s.setChannel c x).sweeps = s.sweeps := rfl
@[simp] theorem State.setChannel_engine (s : State) (c : Nat) (x : Channel) : (s.setChannel c x).engine = s.engine := rfl
@[simp] theorem State.setChannel_pilots (s : State) (c : Nat) (x : Channel) : (s.setChannel c x).pilots = s.pilots := rfl
@[simp] theorem State.setChannel_channels (s : State) (c : Nat) (x : Channel) : (s.setChannel c x).channels = s.channels.set c x := rfl
@[simp] theorem State.setChannel_directory (s : State) (c : Nat) (x : Channel) : (s.setChannel c x).directory = s.directory := rfl
@[simp] theorem State.setChannel_stackUnit (s : State) (c : Nat) (x : Channel) : (s.setChannel c x).stackUnit = s.stackUnit := rfl
@[simp] theorem State.setChannel_drq (s : State) (c : Nat) (x : Channel) : (s.setChannel c x).drq = s.drq := rfl
@[simp] theorem State.setChannel_pwb (s : State) (c : Nat) (x : Channel) : (s.setChannel c x).pwb = s.pwb := rfl
@[simp] theorem State.setChannel_held (s : State) (c : Nat) (x : Channel) : (s.setChannel c x).held = s.held := rfl
@[simp] theorem State.setChannel_answer (s : State) (c : Nat) (x : Channel) : (s.setChannel c x).answer = s.answer := rfl
@[simp] theorem State.setChannel_port (s : State) (c : Nat) (x : Channel) : (s.setChannel c x).port = s.port := rfl
@[simp] theorem State.setChannel_commands (s : State) (c : Nat) (x : Channel) : (s.setChannel c x).commands = s.commands := rfl
@[simp] theorem State.setChannel_reports (s : State) (c : Nat) (x : Channel) : (s.setChannel c x).reports = s.reports := rfl
@[simp] theorem State.setChannel_memory (s : State) (c : Nat) (x : Channel) : (s.setChannel c x).memory = s.memory := rfl
@[simp] theorem State.setChannel_pending (s : State) (c : Nat) (x : Channel) : (s.setChannel c x).pending = s.pending := rfl

/-! ### appendStackItem -/

@[simp] theorem State.appendStackItem_geometry (s : State) (i : StackItem) : (s.appendStackItem i).geometry = s.geometry := rfl
@[simp] theorem State.appendStackItem_windows (s : State) (i : StackItem) : (s.appendStackItem i).windows = s.windows := rfl
@[simp] theorem State.appendStackItem_cbase (s : State) (i : StackItem) : (s.appendStackItem i).cbase = s.cbase := rfl
@[simp] theorem State.appendStackItem_mode (s : State) (i : StackItem) : (s.appendStackItem i).mode = s.mode := rfl
@[simp] theorem State.appendStackItem_requestedMode (s : State) (i : StackItem) : (s.appendStackItem i).requestedMode = s.requestedMode := rfl
@[simp] theorem State.appendStackItem_assembler (s : State) (i : StackItem) : (s.appendStackItem i).assembler = s.assembler := rfl
@[simp] theorem State.appendStackItem_sweeps (s : State) (i : StackItem) : (s.appendStackItem i).sweeps = s.sweeps := rfl
@[simp] theorem State.appendStackItem_engine (s : State) (i : StackItem) : (s.appendStackItem i).engine = s.engine := rfl
@[simp] theorem State.appendStackItem_pilots (s : State) (i : StackItem) : (s.appendStackItem i).pilots = s.pilots := rfl
@[simp] theorem State.appendStackItem_channels (s : State) (i : StackItem) : (s.appendStackItem i).channels = s.channels := rfl
@[simp] theorem State.appendStackItem_directory (s : State) (i : StackItem) : (s.appendStackItem i).directory = s.directory := rfl
@[simp] theorem State.appendStackItem_stackUnit (s : State) (i : StackItem) : (s.appendStackItem i).stackUnit = { s.stackUnit with list := s.stackUnit.list ++ [i] } := rfl
@[simp] theorem State.appendStackItem_drq (s : State) (i : StackItem) : (s.appendStackItem i).drq = s.drq := rfl
@[simp] theorem State.appendStackItem_pwb (s : State) (i : StackItem) : (s.appendStackItem i).pwb = s.pwb := rfl
@[simp] theorem State.appendStackItem_held (s : State) (i : StackItem) : (s.appendStackItem i).held = s.held := rfl
@[simp] theorem State.appendStackItem_answer (s : State) (i : StackItem) : (s.appendStackItem i).answer = s.answer := rfl
@[simp] theorem State.appendStackItem_port (s : State) (i : StackItem) : (s.appendStackItem i).port = s.port := rfl
@[simp] theorem State.appendStackItem_commands (s : State) (i : StackItem) : (s.appendStackItem i).commands = s.commands := rfl
@[simp] theorem State.appendStackItem_reports (s : State) (i : StackItem) : (s.appendStackItem i).reports = s.reports := rfl
@[simp] theorem State.appendStackItem_memory (s : State) (i : StackItem) : (s.appendStackItem i).memory = s.memory := rfl
@[simp] theorem State.appendStackItem_pending (s : State) (i : StackItem) : (s.appendStackItem i).pending = s.pending := rfl

/-! ### submit -/

@[simp] theorem State.submit_geometry (s : State) (k : ReportKind) (n : Nat) (q : Option Requester) (x : Nat) : (s.submit k n q x).geometry = s.geometry := rfl
@[simp] theorem State.submit_windows (s : State) (k : ReportKind) (n : Nat) (q : Option Requester) (x : Nat) : (s.submit k n q x).windows = s.windows := rfl
@[simp] theorem State.submit_cbase (s : State) (k : ReportKind) (n : Nat) (q : Option Requester) (x : Nat) : (s.submit k n q x).cbase = s.cbase := rfl
@[simp] theorem State.submit_mode (s : State) (k : ReportKind) (n : Nat) (q : Option Requester) (x : Nat) : (s.submit k n q x).mode = s.mode := rfl
@[simp] theorem State.submit_requestedMode (s : State) (k : ReportKind) (n : Nat) (q : Option Requester) (x : Nat) : (s.submit k n q x).requestedMode = s.requestedMode := rfl
@[simp] theorem State.submit_assembler (s : State) (k : ReportKind) (n : Nat) (q : Option Requester) (x : Nat) : (s.submit k n q x).assembler = s.assembler := rfl
@[simp] theorem State.submit_sweeps (s : State) (k : ReportKind) (n : Nat) (q : Option Requester) (x : Nat) : (s.submit k n q x).sweeps = s.sweeps := rfl
@[simp] theorem State.submit_engine (s : State) (k : ReportKind) (n : Nat) (q : Option Requester) (x : Nat) : (s.submit k n q x).engine = s.engine := rfl
@[simp] theorem State.submit_pilots (s : State) (k : ReportKind) (n : Nat) (q : Option Requester) (x : Nat) : (s.submit k n q x).pilots = s.pilots := rfl
@[simp] theorem State.submit_channels (s : State) (k : ReportKind) (n : Nat) (q : Option Requester) (x : Nat) : (s.submit k n q x).channels = s.channels := rfl
@[simp] theorem State.submit_directory (s : State) (k : ReportKind) (n : Nat) (q : Option Requester) (x : Nat) : (s.submit k n q x).directory = s.directory := rfl
@[simp] theorem State.submit_stackUnit (s : State) (k : ReportKind) (n : Nat) (q : Option Requester) (x : Nat) : (s.submit k n q x).stackUnit = s.stackUnit := rfl
@[simp] theorem State.submit_drq (s : State) (k : ReportKind) (n : Nat) (q : Option Requester) (x : Nat) : (s.submit k n q x).drq = s.drq := rfl
@[simp] theorem State.submit_pwb (s : State) (k : ReportKind) (n : Nat) (q : Option Requester) (x : Nat) : (s.submit k n q x).pwb = s.pwb := rfl
@[simp] theorem State.submit_held (s : State) (k : ReportKind) (n : Nat) (q : Option Requester) (x : Nat) : (s.submit k n q x).held = s.held := rfl
@[simp] theorem State.submit_answer (s : State) (k : ReportKind) (n : Nat) (q : Option Requester) (x : Nat) : (s.submit k n q x).answer = s.answer := rfl
@[simp] theorem State.submit_port (s : State) (k : ReportKind) (n : Nat) (q : Option Requester) (x : Nat) : (s.submit k n q x).port = s.port := rfl
@[simp] theorem State.submit_commands (s : State) (k : ReportKind) (n : Nat) (q : Option Requester) (x : Nat) : (s.submit k n q x).commands = s.commands := rfl
@[simp] theorem State.submit_reports (s : State) (k : ReportKind) (n : Nat) (q : Option Requester) (x : Nat) : (s.submit k n q x).reports = s.reports.submit s.assembler.newest k n q x := rfl
@[simp] theorem State.submit_memory (s : State) (k : ReportKind) (n : Nat) (q : Option Requester) (x : Nat) : (s.submit k n q x).memory = s.memory := rfl
@[simp] theorem State.submit_pending (s : State) (k : ReportKind) (n : Nat) (q : Option Requester) (x : Nat) : (s.submit k n q x).pending = s.pending := rfl

/-! ### partFault -/

@[simp] theorem State.partFault_geometry (s : State) (op : PartOperation) (n : Nat) : (s.partFault op n).geometry = s.geometry := rfl
@[simp] theorem State.partFault_windows (s : State) (op : PartOperation) (n : Nat) : (s.partFault op n).windows = s.windows := rfl
@[simp] theorem State.partFault_cbase (s : State) (op : PartOperation) (n : Nat) : (s.partFault op n).cbase = s.cbase := rfl
@[simp] theorem State.partFault_mode (s : State) (op : PartOperation) (n : Nat) : (s.partFault op n).mode = s.mode := rfl
@[simp] theorem State.partFault_requestedMode (s : State) (op : PartOperation) (n : Nat) : (s.partFault op n).requestedMode = s.requestedMode := rfl
@[simp] theorem State.partFault_assembler (s : State) (op : PartOperation) (n : Nat) : (s.partFault op n).assembler = s.assembler := rfl
@[simp] theorem State.partFault_sweeps (s : State) (op : PartOperation) (n : Nat) : (s.partFault op n).sweeps = s.sweeps := rfl
@[simp] theorem State.partFault_engine (s : State) (op : PartOperation) (n : Nat) : (s.partFault op n).engine = s.engine := rfl
@[simp] theorem State.partFault_pilots (s : State) (op : PartOperation) (n : Nat) : (s.partFault op n).pilots = s.pilots := rfl
@[simp] theorem State.partFault_channels (s : State) (op : PartOperation) (n : Nat) : (s.partFault op n).channels = s.channels := rfl
@[simp] theorem State.partFault_directory (s : State) (op : PartOperation) (n : Nat) : (s.partFault op n).directory = s.directory := rfl
@[simp] theorem State.partFault_stackUnit (s : State) (op : PartOperation) (n : Nat) : (s.partFault op n).stackUnit = s.stackUnit := rfl
@[simp] theorem State.partFault_drq (s : State) (op : PartOperation) (n : Nat) : (s.partFault op n).drq = s.drq := rfl
@[simp] theorem State.partFault_pwb (s : State) (op : PartOperation) (n : Nat) : (s.partFault op n).pwb = s.pwb := rfl
@[simp] theorem State.partFault_held (s : State) (op : PartOperation) (n : Nat) : (s.partFault op n).held = s.held := rfl
@[simp] theorem State.partFault_answer (s : State) (op : PartOperation) (n : Nat) : (s.partFault op n).answer = s.answer := rfl
@[simp] theorem State.partFault_port (s : State) (op : PartOperation) (n : Nat) : (s.partFault op n).port = s.port := rfl
@[simp] theorem State.partFault_commands (s : State) (op : PartOperation) (n : Nat) : (s.partFault op n).commands = s.commands := rfl
@[simp] theorem State.partFault_reports (s : State) (op : PartOperation) (n : Nat) : (s.partFault op n).reports = s.reports.submit s.assembler.newest .partFault n none op.code := rfl
@[simp] theorem State.partFault_memory (s : State) (op : PartOperation) (n : Nat) : (s.partFault op n).memory = s.memory := rfl
@[simp] theorem State.partFault_pending (s : State) (op : PartOperation) (n : Nat) : (s.partFault op n).pending = s.pending := rfl

/-! ### present -/

@[simp] theorem State.present_geometry (s : State) (c : Client) (x : Transfer) : (s.present c x).geometry = s.geometry := rfl
@[simp] theorem State.present_windows (s : State) (c : Client) (x : Transfer) : (s.present c x).windows = s.windows := rfl
@[simp] theorem State.present_cbase (s : State) (c : Client) (x : Transfer) : (s.present c x).cbase = s.cbase := rfl
@[simp] theorem State.present_mode (s : State) (c : Client) (x : Transfer) : (s.present c x).mode = s.mode := rfl
@[simp] theorem State.present_requestedMode (s : State) (c : Client) (x : Transfer) : (s.present c x).requestedMode = s.requestedMode := rfl
@[simp] theorem State.present_assembler (s : State) (c : Client) (x : Transfer) : (s.present c x).assembler = s.assembler := rfl
@[simp] theorem State.present_sweeps (s : State) (c : Client) (x : Transfer) : (s.present c x).sweeps = s.sweeps := rfl
@[simp] theorem State.present_engine (s : State) (c : Client) (x : Transfer) : (s.present c x).engine = s.engine := rfl
@[simp] theorem State.present_pilots (s : State) (c : Client) (x : Transfer) : (s.present c x).pilots = s.pilots := rfl
@[simp] theorem State.present_channels (s : State) (c : Client) (x : Transfer) : (s.present c x).channels = s.channels := rfl
@[simp] theorem State.present_directory (s : State) (c : Client) (x : Transfer) : (s.present c x).directory = s.directory := rfl
@[simp] theorem State.present_stackUnit (s : State) (c : Client) (x : Transfer) : (s.present c x).stackUnit = s.stackUnit := rfl
@[simp] theorem State.present_drq (s : State) (c : Client) (x : Transfer) : (s.present c x).drq = s.drq := rfl
@[simp] theorem State.present_pwb (s : State) (c : Client) (x : Transfer) : (s.present c x).pwb = s.pwb := rfl
@[simp] theorem State.present_held (s : State) (c : Client) (x : Transfer) : (s.present c x).held = s.held := rfl
@[simp] theorem State.present_answer (s : State) (c : Client) (x : Transfer) : (s.present c x).answer = s.answer := rfl
@[simp] theorem State.present_port (s : State) (c : Client) (x : Transfer) : (s.present c x).port = s.port.present c x := rfl
@[simp] theorem State.present_commands (s : State) (c : Client) (x : Transfer) : (s.present c x).commands = s.commands := rfl
@[simp] theorem State.present_reports (s : State) (c : Client) (x : Transfer) : (s.present c x).reports = s.reports := rfl
@[simp] theorem State.present_memory (s : State) (c : Client) (x : Transfer) : (s.present c x).memory = s.memory := rfl
@[simp] theorem State.present_pending (s : State) (c : Client) (x : Transfer) : (s.present c x).pending = s.pending := rfl

/-! ### settle -/

@[simp] theorem State.settle_geometry (s : State) : s.settle.geometry = s.geometry := rfl
@[simp] theorem State.settle_windows (s : State) : s.settle.windows = s.windows := rfl
@[simp] theorem State.settle_cbase (s : State) : s.settle.cbase = s.cbase := rfl
@[simp] theorem State.settle_mode (s : State) : s.settle.mode = s.mode := rfl
@[simp] theorem State.settle_requestedMode (s : State) : s.settle.requestedMode = s.requestedMode := rfl
@[simp] theorem State.settle_assembler (s : State) : s.settle.assembler = s.assembler := rfl
@[simp] theorem State.settle_sweeps (s : State) : s.settle.sweeps = s.sweeps := rfl
@[simp] theorem State.settle_engine (s : State) : s.settle.engine = s.engine := rfl
@[simp] theorem State.settle_pilots (s : State) : s.settle.pilots = s.pilots := rfl
@[simp] theorem State.settle_channels (s : State) : s.settle.channels = s.channels := rfl
@[simp] theorem State.settle_directory (s : State) : s.settle.directory = s.directory := rfl
@[simp] theorem State.settle_stackUnit (s : State) : s.settle.stackUnit = s.stackUnit := rfl
@[simp] theorem State.settle_drq (s : State) : s.settle.drq = s.drq := rfl
@[simp] theorem State.settle_pwb (s : State) : s.settle.pwb = s.pwb := rfl
@[simp] theorem State.settle_held (s : State) : s.settle.held = s.held := rfl
@[simp] theorem State.settle_answer (s : State) : s.settle.answer = s.answer := rfl
theorem State.settle_port (s : State) : s.settle.port = (s.presentDelivery (s.presentFetch s.presentReport.1)).arbitrate := rfl
@[simp] theorem State.settle_commands (s : State) : s.settle.commands = s.commands := rfl
theorem State.settle_reports (s : State) : s.settle.reports = s.presentReport.2 := rfl
@[simp] theorem State.settle_memory (s : State) : s.settle.memory = s.memory := rfl
@[simp] theorem State.settle_pending (s : State) : s.settle.pending = s.pending := rfl

/-! ### setCommandSlot -/

@[simp] theorem State.setCommandSlot_geometry (s : State) (j : Nat) (c : CommandSlot) : (s.setCommandSlot j c).geometry = s.geometry := rfl
@[simp] theorem State.setCommandSlot_windows (s : State) (j : Nat) (c : CommandSlot) : (s.setCommandSlot j c).windows = s.windows := rfl
@[simp] theorem State.setCommandSlot_cbase (s : State) (j : Nat) (c : CommandSlot) : (s.setCommandSlot j c).cbase = s.cbase := rfl
@[simp] theorem State.setCommandSlot_mode (s : State) (j : Nat) (c : CommandSlot) : (s.setCommandSlot j c).mode = s.mode := rfl
@[simp] theorem State.setCommandSlot_requestedMode (s : State) (j : Nat) (c : CommandSlot) : (s.setCommandSlot j c).requestedMode = s.requestedMode := rfl
@[simp] theorem State.setCommandSlot_assembler (s : State) (j : Nat) (c : CommandSlot) : (s.setCommandSlot j c).assembler = s.assembler := rfl
@[simp] theorem State.setCommandSlot_sweeps (s : State) (j : Nat) (c : CommandSlot) : (s.setCommandSlot j c).sweeps = s.sweeps := rfl
@[simp] theorem State.setCommandSlot_engine (s : State) (j : Nat) (c : CommandSlot) : (s.setCommandSlot j c).engine = s.engine := rfl
@[simp] theorem State.setCommandSlot_pilots (s : State) (j : Nat) (c : CommandSlot) : (s.setCommandSlot j c).pilots = s.pilots := rfl
@[simp] theorem State.setCommandSlot_channels (s : State) (j : Nat) (c : CommandSlot) : (s.setCommandSlot j c).channels = s.channels := rfl
@[simp] theorem State.setCommandSlot_directory (s : State) (j : Nat) (c : CommandSlot) : (s.setCommandSlot j c).directory = s.directory := rfl
@[simp] theorem State.setCommandSlot_stackUnit (s : State) (j : Nat) (c : CommandSlot) : (s.setCommandSlot j c).stackUnit = s.stackUnit := rfl
@[simp] theorem State.setCommandSlot_drq (s : State) (j : Nat) (c : CommandSlot) : (s.setCommandSlot j c).drq = s.drq := rfl
@[simp] theorem State.setCommandSlot_pwb (s : State) (j : Nat) (c : CommandSlot) : (s.setCommandSlot j c).pwb = s.pwb := rfl
@[simp] theorem State.setCommandSlot_held (s : State) (j : Nat) (c : CommandSlot) : (s.setCommandSlot j c).held = s.held := rfl
@[simp] theorem State.setCommandSlot_answer (s : State) (j : Nat) (c : CommandSlot) : (s.setCommandSlot j c).answer = s.answer := rfl
@[simp] theorem State.setCommandSlot_port (s : State) (j : Nat) (c : CommandSlot) : (s.setCommandSlot j c).port = s.port := rfl
@[simp] theorem State.setCommandSlot_commands (s : State) (j : Nat) (c : CommandSlot) : (s.setCommandSlot j c).commands = { s.commands with slots := s.commands.slots.set j c } := rfl
@[simp] theorem State.setCommandSlot_reports (s : State) (j : Nat) (c : CommandSlot) : (s.setCommandSlot j c).reports = s.reports := rfl
@[simp] theorem State.setCommandSlot_memory (s : State) (j : Nat) (c : CommandSlot) : (s.setCommandSlot j c).memory = s.memory := rfl
@[simp] theorem State.setCommandSlot_pending (s : State) (j : Nat) (c : CommandSlot) : (s.setCommandSlot j c).pending = s.pending := rfl

/-! ### setProgress -/

@[simp] theorem State.setProgress_geometry (s : State) (p : CommandProgress) : (s.setProgress p).geometry = s.geometry := rfl
@[simp] theorem State.setProgress_windows (s : State) (p : CommandProgress) : (s.setProgress p).windows = s.windows := rfl
@[simp] theorem State.setProgress_cbase (s : State) (p : CommandProgress) : (s.setProgress p).cbase = s.cbase := rfl
@[simp] theorem State.setProgress_mode (s : State) (p : CommandProgress) : (s.setProgress p).mode = s.mode := rfl
@[simp] theorem State.setProgress_requestedMode (s : State) (p : CommandProgress) : (s.setProgress p).requestedMode = s.requestedMode := rfl
@[simp] theorem State.setProgress_assembler (s : State) (p : CommandProgress) : (s.setProgress p).assembler = s.assembler := rfl
@[simp] theorem State.setProgress_sweeps (s : State) (p : CommandProgress) : (s.setProgress p).sweeps = s.sweeps := rfl
@[simp] theorem State.setProgress_engine (s : State) (p : CommandProgress) : (s.setProgress p).engine = s.engine := rfl
@[simp] theorem State.setProgress_pilots (s : State) (p : CommandProgress) : (s.setProgress p).pilots = s.pilots := rfl
@[simp] theorem State.setProgress_channels (s : State) (p : CommandProgress) : (s.setProgress p).channels = s.channels := rfl
@[simp] theorem State.setProgress_directory (s : State) (p : CommandProgress) : (s.setProgress p).directory = s.directory := rfl
@[simp] theorem State.setProgress_stackUnit (s : State) (p : CommandProgress) : (s.setProgress p).stackUnit = s.stackUnit := rfl
@[simp] theorem State.setProgress_drq (s : State) (p : CommandProgress) : (s.setProgress p).drq = s.drq := rfl
@[simp] theorem State.setProgress_pwb (s : State) (p : CommandProgress) : (s.setProgress p).pwb = s.pwb := rfl
@[simp] theorem State.setProgress_held (s : State) (p : CommandProgress) : (s.setProgress p).held = s.held := rfl
@[simp] theorem State.setProgress_answer (s : State) (p : CommandProgress) : (s.setProgress p).answer = s.answer := rfl
@[simp] theorem State.setProgress_port (s : State) (p : CommandProgress) : (s.setProgress p).port = s.port := rfl
@[simp] theorem State.setProgress_commands (s : State) (p : CommandProgress) : (s.setProgress p).commands = { s.commands with progress := some p } := rfl
@[simp] theorem State.setProgress_reports (s : State) (p : CommandProgress) : (s.setProgress p).reports = s.reports := rfl
@[simp] theorem State.setProgress_memory (s : State) (p : CommandProgress) : (s.setProgress p).memory = s.memory := rfl
@[simp] theorem State.setProgress_pending (s : State) (p : CommandProgress) : (s.setProgress p).pending = s.pending := rfl

/-! ### mapSweeps -/

@[simp] theorem State.mapSweeps_geometry (s : State) (f : Sweep → Sweep) : (s.mapSweeps f).geometry = s.geometry := rfl
@[simp] theorem State.mapSweeps_windows (s : State) (f : Sweep → Sweep) : (s.mapSweeps f).windows = s.windows := rfl
@[simp] theorem State.mapSweeps_cbase (s : State) (f : Sweep → Sweep) : (s.mapSweeps f).cbase = s.cbase := rfl
@[simp] theorem State.mapSweeps_mode (s : State) (f : Sweep → Sweep) : (s.mapSweeps f).mode = s.mode := rfl
@[simp] theorem State.mapSweeps_requestedMode (s : State) (f : Sweep → Sweep) : (s.mapSweeps f).requestedMode = s.requestedMode := rfl
@[simp] theorem State.mapSweeps_assembler (s : State) (f : Sweep → Sweep) : (s.mapSweeps f).assembler = s.assembler := rfl
@[simp] theorem State.mapSweeps_sweeps (s : State) (f : Sweep → Sweep) : (s.mapSweeps f).sweeps = { s.sweeps with table := s.sweeps.table.map (Option.map f) } := rfl
@[simp] theorem State.mapSweeps_engine (s : State) (f : Sweep → Sweep) : (s.mapSweeps f).engine = s.engine := rfl
@[simp] theorem State.mapSweeps_pilots (s : State) (f : Sweep → Sweep) : (s.mapSweeps f).pilots = s.pilots := rfl
@[simp] theorem State.mapSweeps_channels (s : State) (f : Sweep → Sweep) : (s.mapSweeps f).channels = s.channels := rfl
@[simp] theorem State.mapSweeps_directory (s : State) (f : Sweep → Sweep) : (s.mapSweeps f).directory = s.directory := rfl
@[simp] theorem State.mapSweeps_stackUnit (s : State) (f : Sweep → Sweep) : (s.mapSweeps f).stackUnit = s.stackUnit := rfl
@[simp] theorem State.mapSweeps_drq (s : State) (f : Sweep → Sweep) : (s.mapSweeps f).drq = s.drq := rfl
@[simp] theorem State.mapSweeps_pwb (s : State) (f : Sweep → Sweep) : (s.mapSweeps f).pwb = s.pwb := rfl
@[simp] theorem State.mapSweeps_held (s : State) (f : Sweep → Sweep) : (s.mapSweeps f).held = s.held := rfl
@[simp] theorem State.mapSweeps_answer (s : State) (f : Sweep → Sweep) : (s.mapSweeps f).answer = s.answer := rfl
@[simp] theorem State.mapSweeps_port (s : State) (f : Sweep → Sweep) : (s.mapSweeps f).port = s.port := rfl
@[simp] theorem State.mapSweeps_commands (s : State) (f : Sweep → Sweep) : (s.mapSweeps f).commands = s.commands := rfl
@[simp] theorem State.mapSweeps_reports (s : State) (f : Sweep → Sweep) : (s.mapSweeps f).reports = s.reports := rfl
@[simp] theorem State.mapSweeps_memory (s : State) (f : Sweep → Sweep) : (s.mapSweeps f).memory = s.memory := rfl
@[simp] theorem State.mapSweeps_pending (s : State) (f : Sweep → Sweep) : (s.mapSweeps f).pending = s.pending := rfl

/-! ### muteSweeps -/

@[simp] theorem State.muteSweeps_geometry (s : State) (c : Nat) : (s.muteSweeps c).geometry = s.geometry := rfl
@[simp] theorem State.muteSweeps_windows (s : State) (c : Nat) : (s.muteSweeps c).windows = s.windows := rfl
@[simp] theorem State.muteSweeps_cbase (s : State) (c : Nat) : (s.muteSweeps c).cbase = s.cbase := rfl
@[simp] theorem State.muteSweeps_mode (s : State) (c : Nat) : (s.muteSweeps c).mode = s.mode := rfl
@[simp] theorem State.muteSweeps_requestedMode (s : State) (c : Nat) : (s.muteSweeps c).requestedMode = s.requestedMode := rfl
@[simp] theorem State.muteSweeps_assembler (s : State) (c : Nat) : (s.muteSweeps c).assembler = s.assembler := rfl
@[simp] theorem State.muteSweeps_sweeps (s : State) (c : Nat) : (s.muteSweeps c).sweeps = { s.sweeps with table := s.sweeps.table.map (Option.map (fun w =>
      if w.state.mutable then { w with activeSet := w.activeSet.map (fun a => a.filter (· != c)) } else w)) } := rfl
@[simp] theorem State.muteSweeps_engine (s : State) (c : Nat) : (s.muteSweeps c).engine = s.engine := rfl
@[simp] theorem State.muteSweeps_pilots (s : State) (c : Nat) : (s.muteSweeps c).pilots = s.pilots := rfl
@[simp] theorem State.muteSweeps_channels (s : State) (c : Nat) : (s.muteSweeps c).channels = s.channels := rfl
@[simp] theorem State.muteSweeps_directory (s : State) (c : Nat) : (s.muteSweeps c).directory = s.directory := rfl
@[simp] theorem State.muteSweeps_stackUnit (s : State) (c : Nat) : (s.muteSweeps c).stackUnit = s.stackUnit := rfl
@[simp] theorem State.muteSweeps_drq (s : State) (c : Nat) : (s.muteSweeps c).drq = s.drq := rfl
@[simp] theorem State.muteSweeps_pwb (s : State) (c : Nat) : (s.muteSweeps c).pwb = s.pwb := rfl
@[simp] theorem State.muteSweeps_held (s : State) (c : Nat) : (s.muteSweeps c).held = s.held := rfl
@[simp] theorem State.muteSweeps_answer (s : State) (c : Nat) : (s.muteSweeps c).answer = s.answer := rfl
@[simp] theorem State.muteSweeps_port (s : State) (c : Nat) : (s.muteSweeps c).port = s.port := rfl
@[simp] theorem State.muteSweeps_commands (s : State) (c : Nat) : (s.muteSweeps c).commands = s.commands := rfl
@[simp] theorem State.muteSweeps_reports (s : State) (c : Nat) : (s.muteSweeps c).reports = s.reports := rfl
@[simp] theorem State.muteSweeps_memory (s : State) (c : Nat) : (s.muteSweeps c).memory = s.memory := rfl
@[simp] theorem State.muteSweeps_pending (s : State) (c : Nat) : (s.muteSweeps c).pending = s.pending := rfl

/-! ### resumeStalled -/

@[simp] theorem State.resumeStalled_geometry (s : State) : s.resumeStalled.geometry = s.geometry := rfl
@[simp] theorem State.resumeStalled_windows (s : State) : s.resumeStalled.windows = s.windows := rfl
@[simp] theorem State.resumeStalled_cbase (s : State) : s.resumeStalled.cbase = s.cbase := rfl
@[simp] theorem State.resumeStalled_mode (s : State) : s.resumeStalled.mode = s.mode := rfl
@[simp] theorem State.resumeStalled_requestedMode (s : State) : s.resumeStalled.requestedMode = s.requestedMode := rfl
@[simp] theorem State.resumeStalled_assembler (s : State) : s.resumeStalled.assembler = s.assembler := rfl
@[simp] theorem State.resumeStalled_sweeps (s : State) : s.resumeStalled.sweeps = { s.sweeps with table := s.sweeps.table.map (Option.map Sweep.resume) } := rfl
@[simp] theorem State.resumeStalled_engine (s : State) : s.resumeStalled.engine = s.engine := rfl
@[simp] theorem State.resumeStalled_pilots (s : State) : s.resumeStalled.pilots = s.pilots := rfl
@[simp] theorem State.resumeStalled_channels (s : State) : s.resumeStalled.channels = s.channels := rfl
@[simp] theorem State.resumeStalled_directory (s : State) : s.resumeStalled.directory = s.directory := rfl
@[simp] theorem State.resumeStalled_stackUnit (s : State) : s.resumeStalled.stackUnit = s.stackUnit := rfl
@[simp] theorem State.resumeStalled_drq (s : State) : s.resumeStalled.drq = s.drq := rfl
@[simp] theorem State.resumeStalled_pwb (s : State) : s.resumeStalled.pwb = s.pwb := rfl
@[simp] theorem State.resumeStalled_held (s : State) : s.resumeStalled.held = s.held := rfl
@[simp] theorem State.resumeStalled_answer (s : State) : s.resumeStalled.answer = s.answer := rfl
@[simp] theorem State.resumeStalled_port (s : State) : s.resumeStalled.port = s.port := rfl
@[simp] theorem State.resumeStalled_commands (s : State) : s.resumeStalled.commands = s.commands := rfl
@[simp] theorem State.resumeStalled_reports (s : State) : s.resumeStalled.reports = s.reports := rfl
@[simp] theorem State.resumeStalled_memory (s : State) : s.resumeStalled.memory = s.memory := rfl
@[simp] theorem State.resumeStalled_pending (s : State) : s.resumeStalled.pending = s.pending := rfl

/-! ### reloadStall -/

@[simp] theorem State.reloadStall_geometry (s : State) : s.reloadStall.geometry = s.geometry := rfl
@[simp] theorem State.reloadStall_windows (s : State) : s.reloadStall.windows = s.windows := rfl
@[simp] theorem State.reloadStall_cbase (s : State) : s.reloadStall.cbase = s.cbase := rfl
@[simp] theorem State.reloadStall_mode (s : State) : s.reloadStall.mode = s.mode := rfl
@[simp] theorem State.reloadStall_requestedMode (s : State) : s.reloadStall.requestedMode = s.requestedMode := rfl
@[simp] theorem State.reloadStall_assembler (s : State) : s.reloadStall.assembler = s.assembler := rfl
@[simp] theorem State.reloadStall_sweeps (s : State) : s.reloadStall.sweeps = { s.sweeps with stallTimer := s.sweeps.stallTimer.map (fun _ => s.sweeps.stallPeriod) } := rfl
@[simp] theorem State.reloadStall_engine (s : State) : s.reloadStall.engine = s.engine := rfl
@[simp] theorem State.reloadStall_pilots (s : State) : s.reloadStall.pilots = s.pilots := rfl
@[simp] theorem State.reloadStall_channels (s : State) : s.reloadStall.channels = s.channels := rfl
@[simp] theorem State.reloadStall_directory (s : State) : s.reloadStall.directory = s.directory := rfl
@[simp] theorem State.reloadStall_stackUnit (s : State) : s.reloadStall.stackUnit = s.stackUnit := rfl
@[simp] theorem State.reloadStall_drq (s : State) : s.reloadStall.drq = s.drq := rfl
@[simp] theorem State.reloadStall_pwb (s : State) : s.reloadStall.pwb = s.pwb := rfl
@[simp] theorem State.reloadStall_held (s : State) : s.reloadStall.held = s.held := rfl
@[simp] theorem State.reloadStall_answer (s : State) : s.reloadStall.answer = s.answer := rfl
@[simp] theorem State.reloadStall_port (s : State) : s.reloadStall.port = s.port := rfl
@[simp] theorem State.reloadStall_commands (s : State) : s.reloadStall.commands = s.commands := rfl
@[simp] theorem State.reloadStall_reports (s : State) : s.reloadStall.reports = s.reports := rfl
@[simp] theorem State.reloadStall_memory (s : State) : s.reloadStall.memory = s.memory := rfl
@[simp] theorem State.reloadStall_pending (s : State) : s.reloadStall.pending = s.pending := rfl

/-! ### setDrq -/

@[simp] theorem State.setDrq_geometry (s : State) (i : Nat) (e : Option DrqEntry) : (s.setDrq i e).geometry = s.geometry := rfl
@[simp] theorem State.setDrq_windows (s : State) (i : Nat) (e : Option DrqEntry) : (s.setDrq i e).windows = s.windows := rfl
@[simp] theorem State.setDrq_cbase (s : State) (i : Nat) (e : Option DrqEntry) : (s.setDrq i e).cbase = s.cbase := rfl
@[simp] theorem State.setDrq_mode (s : State) (i : Nat) (e : Option DrqEntry) : (s.setDrq i e).mode = s.mode := rfl
@[simp] theorem State.setDrq_requestedMode (s : State) (i : Nat) (e : Option DrqEntry) : (s.setDrq i e).requestedMode = s.requestedMode := rfl
@[simp] theorem State.setDrq_assembler (s : State) (i : Nat) (e : Option DrqEntry) : (s.setDrq i e).assembler = s.assembler := rfl
@[simp] theorem State.setDrq_sweeps (s : State) (i : Nat) (e : Option DrqEntry) : (s.setDrq i e).sweeps = s.sweeps := rfl
@[simp] theorem State.setDrq_engine (s : State) (i : Nat) (e : Option DrqEntry) : (s.setDrq i e).engine = s.engine := rfl
@[simp] theorem State.setDrq_pilots (s : State) (i : Nat) (e : Option DrqEntry) : (s.setDrq i e).pilots = s.pilots := rfl
@[simp] theorem State.setDrq_channels (s : State) (i : Nat) (e : Option DrqEntry) : (s.setDrq i e).channels = s.channels := rfl
@[simp] theorem State.setDrq_directory (s : State) (i : Nat) (e : Option DrqEntry) : (s.setDrq i e).directory = s.directory := rfl
@[simp] theorem State.setDrq_stackUnit (s : State) (i : Nat) (e : Option DrqEntry) : (s.setDrq i e).stackUnit = s.stackUnit := rfl
@[simp] theorem State.setDrq_drq (s : State) (i : Nat) (e : Option DrqEntry) : (s.setDrq i e).drq = { s.drq with entries := s.drq.entries.set i e } := rfl
@[simp] theorem State.setDrq_pwb (s : State) (i : Nat) (e : Option DrqEntry) : (s.setDrq i e).pwb = s.pwb := rfl
@[simp] theorem State.setDrq_held (s : State) (i : Nat) (e : Option DrqEntry) : (s.setDrq i e).held = s.held := rfl
@[simp] theorem State.setDrq_answer (s : State) (i : Nat) (e : Option DrqEntry) : (s.setDrq i e).answer = s.answer := rfl
@[simp] theorem State.setDrq_port (s : State) (i : Nat) (e : Option DrqEntry) : (s.setDrq i e).port = s.port := rfl
@[simp] theorem State.setDrq_commands (s : State) (i : Nat) (e : Option DrqEntry) : (s.setDrq i e).commands = s.commands := rfl
@[simp] theorem State.setDrq_reports (s : State) (i : Nat) (e : Option DrqEntry) : (s.setDrq i e).reports = s.reports := rfl
@[simp] theorem State.setDrq_memory (s : State) (i : Nat) (e : Option DrqEntry) : (s.setDrq i e).memory = s.memory := rfl
@[simp] theorem State.setDrq_pending (s : State) (i : Nat) (e : Option DrqEntry) : (s.setDrq i e).pending = s.pending := rfl

/-! ### freeDrq -/

@[simp] theorem State.freeDrq_geometry (s : State) (i : Nat) : (s.freeDrq i).geometry = s.geometry := rfl
@[simp] theorem State.freeDrq_windows (s : State) (i : Nat) : (s.freeDrq i).windows = s.windows := rfl
@[simp] theorem State.freeDrq_cbase (s : State) (i : Nat) : (s.freeDrq i).cbase = s.cbase := rfl
@[simp] theorem State.freeDrq_mode (s : State) (i : Nat) : (s.freeDrq i).mode = s.mode := rfl
@[simp] theorem State.freeDrq_requestedMode (s : State) (i : Nat) : (s.freeDrq i).requestedMode = s.requestedMode := rfl
@[simp] theorem State.freeDrq_assembler (s : State) (i : Nat) : (s.freeDrq i).assembler = s.assembler := rfl
@[simp] theorem State.freeDrq_sweeps (s : State) (i : Nat) : (s.freeDrq i).sweeps = s.sweeps := rfl
@[simp] theorem State.freeDrq_engine (s : State) (i : Nat) : (s.freeDrq i).engine = s.engine := rfl
@[simp] theorem State.freeDrq_pilots (s : State) (i : Nat) : (s.freeDrq i).pilots = s.pilots := rfl
@[simp] theorem State.freeDrq_channels (s : State) (i : Nat) : (s.freeDrq i).channels = s.channels := rfl
@[simp] theorem State.freeDrq_directory (s : State) (i : Nat) : (s.freeDrq i).directory = s.directory := rfl
@[simp] theorem State.freeDrq_stackUnit (s : State) (i : Nat) : (s.freeDrq i).stackUnit = s.stackUnit := rfl
@[simp] theorem State.freeDrq_drq (s : State) (i : Nat) : (s.freeDrq i).drq = { s.drq with entries := s.drq.entries.set i none, fetchOrder := s.drq.fetchOrder.filter (· != i) } := rfl
@[simp] theorem State.freeDrq_pwb (s : State) (i : Nat) : (s.freeDrq i).pwb = s.pwb := rfl
@[simp] theorem State.freeDrq_held (s : State) (i : Nat) : (s.freeDrq i).held = s.held := rfl
@[simp] theorem State.freeDrq_answer (s : State) (i : Nat) : (s.freeDrq i).answer = s.answer := rfl
@[simp] theorem State.freeDrq_port (s : State) (i : Nat) : (s.freeDrq i).port = { s.port with fetchFor := if s.port.fetchFor = some i then none else s.port.fetchFor } := rfl
@[simp] theorem State.freeDrq_commands (s : State) (i : Nat) : (s.freeDrq i).commands = s.commands := rfl
@[simp] theorem State.freeDrq_reports (s : State) (i : Nat) : (s.freeDrq i).reports = s.reports := rfl
@[simp] theorem State.freeDrq_memory (s : State) (i : Nat) : (s.freeDrq i).memory = s.memory := rfl
@[simp] theorem State.freeDrq_pending (s : State) (i : Nat) : (s.freeDrq i).pending = s.pending := rfl

/-! ### issueEngine -/

@[simp] theorem State.issueEngine_geometry (s : State) (w : EngineWork) (x : Transfer) : (s.issueEngine w x).geometry = s.geometry := rfl
@[simp] theorem State.issueEngine_windows (s : State) (w : EngineWork) (x : Transfer) : (s.issueEngine w x).windows = s.windows := rfl
@[simp] theorem State.issueEngine_cbase (s : State) (w : EngineWork) (x : Transfer) : (s.issueEngine w x).cbase = s.cbase := rfl
@[simp] theorem State.issueEngine_mode (s : State) (w : EngineWork) (x : Transfer) : (s.issueEngine w x).mode = s.mode := rfl
@[simp] theorem State.issueEngine_requestedMode (s : State) (w : EngineWork) (x : Transfer) : (s.issueEngine w x).requestedMode = s.requestedMode := rfl
@[simp] theorem State.issueEngine_assembler (s : State) (w : EngineWork) (x : Transfer) : (s.issueEngine w x).assembler = s.assembler := rfl
@[simp] theorem State.issueEngine_sweeps (s : State) (w : EngineWork) (x : Transfer) : (s.issueEngine w x).sweeps = s.sweeps := rfl
@[simp] theorem State.issueEngine_engine (s : State) (w : EngineWork) (x : Transfer) : (s.issueEngine w x).engine = { s.engine with work := some w } := rfl
@[simp] theorem State.issueEngine_pilots (s : State) (w : EngineWork) (x : Transfer) : (s.issueEngine w x).pilots = s.pilots := rfl
@[simp] theorem State.issueEngine_channels (s : State) (w : EngineWork) (x : Transfer) : (s.issueEngine w x).channels = s.channels := rfl
@[simp] theorem State.issueEngine_directory (s : State) (w : EngineWork) (x : Transfer) : (s.issueEngine w x).directory = s.directory := rfl
@[simp] theorem State.issueEngine_stackUnit (s : State) (w : EngineWork) (x : Transfer) : (s.issueEngine w x).stackUnit = s.stackUnit := rfl
@[simp] theorem State.issueEngine_drq (s : State) (w : EngineWork) (x : Transfer) : (s.issueEngine w x).drq = s.drq := rfl
@[simp] theorem State.issueEngine_pwb (s : State) (w : EngineWork) (x : Transfer) : (s.issueEngine w x).pwb = s.pwb := rfl
@[simp] theorem State.issueEngine_held (s : State) (w : EngineWork) (x : Transfer) : (s.issueEngine w x).held = s.held := rfl
@[simp] theorem State.issueEngine_answer (s : State) (w : EngineWork) (x : Transfer) : (s.issueEngine w x).answer = s.answer := rfl
@[simp] theorem State.issueEngine_port (s : State) (w : EngineWork) (x : Transfer) : (s.issueEngine w x).port = s.port.present .engine x := rfl
@[simp] theorem State.issueEngine_commands (s : State) (w : EngineWork) (x : Transfer) : (s.issueEngine w x).commands = s.commands := rfl
@[simp] theorem State.issueEngine_reports (s : State) (w : EngineWork) (x : Transfer) : (s.issueEngine w x).reports = s.reports := rfl
@[simp] theorem State.issueEngine_memory (s : State) (w : EngineWork) (x : Transfer) : (s.issueEngine w x).memory = s.memory := rfl
@[simp] theorem State.issueEngine_pending (s : State) (w : EngineWork) (x : Transfer) : (s.issueEngine w x).pending = s.pending := rfl

/-! ### issueStack -/

@[simp] theorem State.issueStack_geometry (s : State) (w : StackWork) (x : Transfer) : (s.issueStack w x).geometry = s.geometry := rfl
@[simp] theorem State.issueStack_windows (s : State) (w : StackWork) (x : Transfer) : (s.issueStack w x).windows = s.windows := rfl
@[simp] theorem State.issueStack_cbase (s : State) (w : StackWork) (x : Transfer) : (s.issueStack w x).cbase = s.cbase := rfl
@[simp] theorem State.issueStack_mode (s : State) (w : StackWork) (x : Transfer) : (s.issueStack w x).mode = s.mode := rfl
@[simp] theorem State.issueStack_requestedMode (s : State) (w : StackWork) (x : Transfer) : (s.issueStack w x).requestedMode = s.requestedMode := rfl
@[simp] theorem State.issueStack_assembler (s : State) (w : StackWork) (x : Transfer) : (s.issueStack w x).assembler = s.assembler := rfl
@[simp] theorem State.issueStack_sweeps (s : State) (w : StackWork) (x : Transfer) : (s.issueStack w x).sweeps = s.sweeps := rfl
@[simp] theorem State.issueStack_engine (s : State) (w : StackWork) (x : Transfer) : (s.issueStack w x).engine = s.engine := rfl
@[simp] theorem State.issueStack_pilots (s : State) (w : StackWork) (x : Transfer) : (s.issueStack w x).pilots = s.pilots := rfl
@[simp] theorem State.issueStack_channels (s : State) (w : StackWork) (x : Transfer) : (s.issueStack w x).channels = s.channels := rfl
@[simp] theorem State.issueStack_directory (s : State) (w : StackWork) (x : Transfer) : (s.issueStack w x).directory = s.directory := rfl
@[simp] theorem State.issueStack_stackUnit (s : State) (w : StackWork) (x : Transfer) : (s.issueStack w x).stackUnit = { s.stackUnit with work := some w } := rfl
@[simp] theorem State.issueStack_drq (s : State) (w : StackWork) (x : Transfer) : (s.issueStack w x).drq = s.drq := rfl
@[simp] theorem State.issueStack_pwb (s : State) (w : StackWork) (x : Transfer) : (s.issueStack w x).pwb = s.pwb := rfl
@[simp] theorem State.issueStack_held (s : State) (w : StackWork) (x : Transfer) : (s.issueStack w x).held = s.held := rfl
@[simp] theorem State.issueStack_answer (s : State) (w : StackWork) (x : Transfer) : (s.issueStack w x).answer = s.answer := rfl
@[simp] theorem State.issueStack_port (s : State) (w : StackWork) (x : Transfer) : (s.issueStack w x).port = s.port.present .stackUnit x := rfl
@[simp] theorem State.issueStack_commands (s : State) (w : StackWork) (x : Transfer) : (s.issueStack w x).commands = s.commands := rfl
@[simp] theorem State.issueStack_reports (s : State) (w : StackWork) (x : Transfer) : (s.issueStack w x).reports = s.reports := rfl
@[simp] theorem State.issueStack_memory (s : State) (w : StackWork) (x : Transfer) : (s.issueStack w x).memory = s.memory := rfl
@[simp] theorem State.issueStack_pending (s : State) (w : StackWork) (x : Transfer) : (s.issueStack w x).pending = s.pending := rfl

/-! ### stackItemEnds -/

@[simp] theorem State.stackItemEnds_geometry (s : State) : s.stackItemEnds.geometry = s.geometry := rfl
@[simp] theorem State.stackItemEnds_windows (s : State) : s.stackItemEnds.windows = s.windows := rfl
@[simp] theorem State.stackItemEnds_cbase (s : State) : s.stackItemEnds.cbase = s.cbase := rfl
@[simp] theorem State.stackItemEnds_mode (s : State) : s.stackItemEnds.mode = s.mode := rfl
@[simp] theorem State.stackItemEnds_requestedMode (s : State) : s.stackItemEnds.requestedMode = s.requestedMode := rfl
@[simp] theorem State.stackItemEnds_assembler (s : State) : s.stackItemEnds.assembler = s.assembler := rfl
@[simp] theorem State.stackItemEnds_sweeps (s : State) : s.stackItemEnds.sweeps = s.sweeps := rfl
@[simp] theorem State.stackItemEnds_engine (s : State) : s.stackItemEnds.engine = s.engine := rfl
@[simp] theorem State.stackItemEnds_pilots (s : State) : s.stackItemEnds.pilots = s.pilots := rfl
@[simp] theorem State.stackItemEnds_channels (s : State) : s.stackItemEnds.channels = s.channels := rfl
@[simp] theorem State.stackItemEnds_directory (s : State) : s.stackItemEnds.directory = s.directory := rfl
@[simp] theorem State.stackItemEnds_stackUnit (s : State) : s.stackItemEnds.stackUnit = { s.stackUnit with work := none } := rfl
@[simp] theorem State.stackItemEnds_drq (s : State) : s.stackItemEnds.drq = s.drq := rfl
@[simp] theorem State.stackItemEnds_pwb (s : State) : s.stackItemEnds.pwb = s.pwb := rfl
@[simp] theorem State.stackItemEnds_held (s : State) : s.stackItemEnds.held = s.held := rfl
@[simp] theorem State.stackItemEnds_answer (s : State) : s.stackItemEnds.answer = s.answer := rfl
@[simp] theorem State.stackItemEnds_port (s : State) : s.stackItemEnds.port = s.port := rfl
@[simp] theorem State.stackItemEnds_commands (s : State) : s.stackItemEnds.commands = s.commands := rfl
@[simp] theorem State.stackItemEnds_reports (s : State) : s.stackItemEnds.reports = s.reports := rfl
@[simp] theorem State.stackItemEnds_memory (s : State) : s.stackItemEnds.memory = s.memory := rfl
@[simp] theorem State.stackItemEnds_pending (s : State) : s.stackItemEnds.pending = s.pending := rfl

/-! ### giveAnswer -/

@[simp] theorem State.giveAnswer_geometry (s : State) (a : UpstreamAnswer) : (s.giveAnswer a).geometry = s.geometry := rfl
@[simp] theorem State.giveAnswer_windows (s : State) (a : UpstreamAnswer) : (s.giveAnswer a).windows = s.windows := rfl
@[simp] theorem State.giveAnswer_cbase (s : State) (a : UpstreamAnswer) : (s.giveAnswer a).cbase = s.cbase := rfl
@[simp] theorem State.giveAnswer_mode (s : State) (a : UpstreamAnswer) : (s.giveAnswer a).mode = s.mode := rfl
@[simp] theorem State.giveAnswer_requestedMode (s : State) (a : UpstreamAnswer) : (s.giveAnswer a).requestedMode = s.requestedMode := rfl
@[simp] theorem State.giveAnswer_assembler (s : State) (a : UpstreamAnswer) : (s.giveAnswer a).assembler = s.assembler := rfl
@[simp] theorem State.giveAnswer_sweeps (s : State) (a : UpstreamAnswer) : (s.giveAnswer a).sweeps = s.sweeps := rfl
@[simp] theorem State.giveAnswer_engine (s : State) (a : UpstreamAnswer) : (s.giveAnswer a).engine = s.engine := rfl
@[simp] theorem State.giveAnswer_pilots (s : State) (a : UpstreamAnswer) : (s.giveAnswer a).pilots = s.pilots := rfl
@[simp] theorem State.giveAnswer_channels (s : State) (a : UpstreamAnswer) : (s.giveAnswer a).channels = s.channels := rfl
@[simp] theorem State.giveAnswer_directory (s : State) (a : UpstreamAnswer) : (s.giveAnswer a).directory = s.directory := rfl
@[simp] theorem State.giveAnswer_stackUnit (s : State) (a : UpstreamAnswer) : (s.giveAnswer a).stackUnit = s.stackUnit := rfl
@[simp] theorem State.giveAnswer_drq (s : State) (a : UpstreamAnswer) : (s.giveAnswer a).drq = s.drq := rfl
@[simp] theorem State.giveAnswer_pwb (s : State) (a : UpstreamAnswer) : (s.giveAnswer a).pwb = s.pwb := rfl
@[simp] theorem State.giveAnswer_held (s : State) (a : UpstreamAnswer) : (s.giveAnswer a).held = s.held := rfl
@[simp] theorem State.giveAnswer_answer (s : State) (a : UpstreamAnswer) : (s.giveAnswer a).answer = some a := rfl
@[simp] theorem State.giveAnswer_port (s : State) (a : UpstreamAnswer) : (s.giveAnswer a).port = s.port := rfl
@[simp] theorem State.giveAnswer_commands (s : State) (a : UpstreamAnswer) : (s.giveAnswer a).commands = s.commands := rfl
@[simp] theorem State.giveAnswer_reports (s : State) (a : UpstreamAnswer) : (s.giveAnswer a).reports = s.reports := rfl
@[simp] theorem State.giveAnswer_memory (s : State) (a : UpstreamAnswer) : (s.giveAnswer a).memory = s.memory := rfl
@[simp] theorem State.giveAnswer_pending (s : State) (a : UpstreamAnswer) : (s.giveAnswer a).pending = s.pending := rfl

/-! ### finishProcess -/

@[simp] theorem State.finishProcess_geometry (s : State) (t : Nat) : (s.finishProcess t).geometry = s.geometry := rfl
@[simp] theorem State.finishProcess_windows (s : State) (t : Nat) : (s.finishProcess t).windows = s.windows := rfl
@[simp] theorem State.finishProcess_cbase (s : State) (t : Nat) : (s.finishProcess t).cbase = s.cbase := rfl
@[simp] theorem State.finishProcess_mode (s : State) (t : Nat) : (s.finishProcess t).mode = s.mode := rfl
@[simp] theorem State.finishProcess_requestedMode (s : State) (t : Nat) : (s.finishProcess t).requestedMode = s.requestedMode := rfl
@[simp] theorem State.finishProcess_assembler (s : State) (t : Nat) : (s.finishProcess t).assembler = { s.assembler with staging := s.assembler.staging.filter (fun e => !(e.released && e.scan == t)) } := rfl
@[simp] theorem State.finishProcess_sweeps (s : State) (t : Nat) : (s.finishProcess t).sweeps = s.sweeps := rfl
@[simp] theorem State.finishProcess_engine (s : State) (t : Nat) : (s.finishProcess t).engine = { s.engine with work := none } := rfl
@[simp] theorem State.finishProcess_pilots (s : State) (t : Nat) : (s.finishProcess t).pilots = s.pilots := rfl
@[simp] theorem State.finishProcess_channels (s : State) (t : Nat) : (s.finishProcess t).channels = s.channels := rfl
@[simp] theorem State.finishProcess_directory (s : State) (t : Nat) : (s.finishProcess t).directory = s.directory := rfl
@[simp] theorem State.finishProcess_stackUnit (s : State) (t : Nat) : (s.finishProcess t).stackUnit = s.stackUnit := rfl
@[simp] theorem State.finishProcess_drq (s : State) (t : Nat) : (s.finishProcess t).drq = s.drq := rfl
@[simp] theorem State.finishProcess_pwb (s : State) (t : Nat) : (s.finishProcess t).pwb = s.pwb := rfl
@[simp] theorem State.finishProcess_held (s : State) (t : Nat) : (s.finishProcess t).held = s.held := rfl
@[simp] theorem State.finishProcess_answer (s : State) (t : Nat) : (s.finishProcess t).answer = s.answer := rfl
@[simp] theorem State.finishProcess_port (s : State) (t : Nat) : (s.finishProcess t).port = s.port := rfl
@[simp] theorem State.finishProcess_commands (s : State) (t : Nat) : (s.finishProcess t).commands = s.commands := rfl
@[simp] theorem State.finishProcess_reports (s : State) (t : Nat) : (s.finishProcess t).reports = s.reports := rfl
@[simp] theorem State.finishProcess_memory (s : State) (t : Nat) : (s.finishProcess t).memory = s.memory := rfl
@[simp] theorem State.finishProcess_pending (s : State) (t : Nat) : (s.finishProcess t).pending = s.pending := rfl

/-! ### popWrite -/

@[simp] theorem State.popWrite_geometry (s : State) (rest : List PwbEntry) : (s.popWrite rest).geometry = s.geometry := rfl
@[simp] theorem State.popWrite_windows (s : State) (rest : List PwbEntry) : (s.popWrite rest).windows = s.windows := rfl
@[simp] theorem State.popWrite_cbase (s : State) (rest : List PwbEntry) : (s.popWrite rest).cbase = s.cbase := rfl
@[simp] theorem State.popWrite_mode (s : State) (rest : List PwbEntry) : (s.popWrite rest).mode = s.mode := rfl
@[simp] theorem State.popWrite_requestedMode (s : State) (rest : List PwbEntry) : (s.popWrite rest).requestedMode = s.requestedMode := rfl
@[simp] theorem State.popWrite_assembler (s : State) (rest : List PwbEntry) : (s.popWrite rest).assembler = s.assembler := rfl
@[simp] theorem State.popWrite_sweeps (s : State) (rest : List PwbEntry) : (s.popWrite rest).sweeps = s.sweeps := rfl
@[simp] theorem State.popWrite_engine (s : State) (rest : List PwbEntry) : (s.popWrite rest).engine = s.engine := rfl
@[simp] theorem State.popWrite_pilots (s : State) (rest : List PwbEntry) : (s.popWrite rest).pilots = s.pilots := rfl
@[simp] theorem State.popWrite_channels (s : State) (rest : List PwbEntry) : (s.popWrite rest).channels = s.channels := rfl
@[simp] theorem State.popWrite_directory (s : State) (rest : List PwbEntry) : (s.popWrite rest).directory = s.directory := rfl
@[simp] theorem State.popWrite_stackUnit (s : State) (rest : List PwbEntry) : (s.popWrite rest).stackUnit = s.stackUnit := rfl
@[simp] theorem State.popWrite_drq (s : State) (rest : List PwbEntry) : (s.popWrite rest).drq = s.drq := rfl
@[simp] theorem State.popWrite_pwb (s : State) (rest : List PwbEntry) : (s.popWrite rest).pwb = rest := rfl
@[simp] theorem State.popWrite_held (s : State) (rest : List PwbEntry) : (s.popWrite rest).held = s.held := rfl
@[simp] theorem State.popWrite_answer (s : State) (rest : List PwbEntry) : (s.popWrite rest).answer = s.answer := rfl
@[simp] theorem State.popWrite_port (s : State) (rest : List PwbEntry) : (s.popWrite rest).port = s.port := rfl
@[simp] theorem State.popWrite_commands (s : State) (rest : List PwbEntry) : (s.popWrite rest).commands = { s.commands with progress := s.commands.progress.map CommandProgress.drained } := rfl
@[simp] theorem State.popWrite_reports (s : State) (rest : List PwbEntry) : (s.popWrite rest).reports = s.reports := rfl
@[simp] theorem State.popWrite_memory (s : State) (rest : List PwbEntry) : (s.popWrite rest).memory = s.memory := rfl
@[simp] theorem State.popWrite_pending (s : State) (rest : List PwbEntry) : (s.popWrite rest).pending = s.pending := rfl

/-! ### pilotsWritten -/

@[simp] theorem State.pilotsWritten_geometry (s : State) (r : Range) : (s.pilotsWritten r).geometry = s.geometry := rfl
@[simp] theorem State.pilotsWritten_windows (s : State) (r : Range) : (s.pilotsWritten r).windows = s.windows := rfl
@[simp] theorem State.pilotsWritten_cbase (s : State) (r : Range) : (s.pilotsWritten r).cbase = s.cbase := rfl
@[simp] theorem State.pilotsWritten_mode (s : State) (r : Range) : (s.pilotsWritten r).mode = s.mode := rfl
@[simp] theorem State.pilotsWritten_requestedMode (s : State) (r : Range) : (s.pilotsWritten r).requestedMode = s.requestedMode := rfl
@[simp] theorem State.pilotsWritten_assembler (s : State) (r : Range) : (s.pilotsWritten r).assembler = s.assembler := rfl
@[simp] theorem State.pilotsWritten_sweeps (s : State) (r : Range) : (s.pilotsWritten r).sweeps = s.sweeps := rfl
@[simp] theorem State.pilotsWritten_engine (s : State) (r : Range) : (s.pilotsWritten r).engine = s.engine := rfl
@[simp] theorem State.pilotsWritten_pilots (s : State) (r : Range) : (s.pilotsWritten r).pilots = s.pilots.map (PilotEntry.written r) := rfl
@[simp] theorem State.pilotsWritten_channels (s : State) (r : Range) : (s.pilotsWritten r).channels = s.channels := rfl
@[simp] theorem State.pilotsWritten_directory (s : State) (r : Range) : (s.pilotsWritten r).directory = s.directory := rfl
@[simp] theorem State.pilotsWritten_stackUnit (s : State) (r : Range) : (s.pilotsWritten r).stackUnit = s.stackUnit := rfl
@[simp] theorem State.pilotsWritten_drq (s : State) (r : Range) : (s.pilotsWritten r).drq = s.drq := rfl
@[simp] theorem State.pilotsWritten_pwb (s : State) (r : Range) : (s.pilotsWritten r).pwb = s.pwb := rfl
@[simp] theorem State.pilotsWritten_held (s : State) (r : Range) : (s.pilotsWritten r).held = s.held := rfl
@[simp] theorem State.pilotsWritten_answer (s : State) (r : Range) : (s.pilotsWritten r).answer = s.answer := rfl
@[simp] theorem State.pilotsWritten_port (s : State) (r : Range) : (s.pilotsWritten r).port = s.port := rfl
@[simp] theorem State.pilotsWritten_commands (s : State) (r : Range) : (s.pilotsWritten r).commands = s.commands := rfl
@[simp] theorem State.pilotsWritten_reports (s : State) (r : Range) : (s.pilotsWritten r).reports = s.reports := rfl
@[simp] theorem State.pilotsWritten_memory (s : State) (r : Range) : (s.pilotsWritten r).memory = s.memory := rfl
@[simp] theorem State.pilotsWritten_pending (s : State) (r : Range) : (s.pilotsWritten r).pending = s.pending := rfl

/-! ### issueHeld -/

@[simp] theorem State.issueHeld_geometry (s : State) (h : HeldRead) : (s.issueHeld h).geometry = s.geometry := rfl
@[simp] theorem State.issueHeld_windows (s : State) (h : HeldRead) : (s.issueHeld h).windows = s.windows := rfl
@[simp] theorem State.issueHeld_cbase (s : State) (h : HeldRead) : (s.issueHeld h).cbase = s.cbase := rfl
@[simp] theorem State.issueHeld_mode (s : State) (h : HeldRead) : (s.issueHeld h).mode = s.mode := rfl
@[simp] theorem State.issueHeld_requestedMode (s : State) (h : HeldRead) : (s.issueHeld h).requestedMode = s.requestedMode := rfl
@[simp] theorem State.issueHeld_assembler (s : State) (h : HeldRead) : (s.issueHeld h).assembler = s.assembler := rfl
@[simp] theorem State.issueHeld_sweeps (s : State) (h : HeldRead) : (s.issueHeld h).sweeps = s.sweeps := rfl
@[simp] theorem State.issueHeld_engine (s : State) (h : HeldRead) : (s.issueHeld h).engine = s.engine := rfl
@[simp] theorem State.issueHeld_pilots (s : State) (h : HeldRead) : (s.issueHeld h).pilots = s.pilots := rfl
@[simp] theorem State.issueHeld_channels (s : State) (h : HeldRead) : (s.issueHeld h).channels = s.channels := rfl
@[simp] theorem State.issueHeld_directory (s : State) (h : HeldRead) : (s.issueHeld h).directory = s.directory := rfl
@[simp] theorem State.issueHeld_stackUnit (s : State) (h : HeldRead) : (s.issueHeld h).stackUnit = s.stackUnit := rfl
@[simp] theorem State.issueHeld_drq (s : State) (h : HeldRead) : (s.issueHeld h).drq = s.drq := rfl
@[simp] theorem State.issueHeld_pwb (s : State) (h : HeldRead) : (s.issueHeld h).pwb = s.pwb := rfl
@[simp] theorem State.issueHeld_held (s : State) (h : HeldRead) : (s.issueHeld h).held = some { h with issued := true } := rfl
@[simp] theorem State.issueHeld_answer (s : State) (h : HeldRead) : (s.issueHeld h).answer = s.answer := rfl
@[simp] theorem State.issueHeld_port (s : State) (h : HeldRead) : (s.issueHeld h).port = s.port.presentForward .passThroughRead (.read h.address h.length) := rfl
@[simp] theorem State.issueHeld_commands (s : State) (h : HeldRead) : (s.issueHeld h).commands = s.commands := rfl
@[simp] theorem State.issueHeld_reports (s : State) (h : HeldRead) : (s.issueHeld h).reports = s.reports := rfl
@[simp] theorem State.issueHeld_memory (s : State) (h : HeldRead) : (s.issueHeld h).memory = s.memory := rfl
@[simp] theorem State.issueHeld_pending (s : State) (h : HeldRead) : (s.issueHeld h).pending = s.pending := rfl

/-! ### resetSweeps -/

@[simp] theorem State.resetSweeps_geometry (s : State) : s.resetSweeps.geometry = s.geometry := rfl
@[simp] theorem State.resetSweeps_windows (s : State) : s.resetSweeps.windows = s.windows := rfl
@[simp] theorem State.resetSweeps_cbase (s : State) : s.resetSweeps.cbase = s.cbase := rfl
@[simp] theorem State.resetSweeps_mode (s : State) : s.resetSweeps.mode = s.mode := rfl
@[simp] theorem State.resetSweeps_requestedMode (s : State) : s.resetSweeps.requestedMode = s.requestedMode := rfl
@[simp] theorem State.resetSweeps_assembler (s : State) : s.resetSweeps.assembler = s.assembler := rfl
@[simp] theorem State.resetSweeps_sweeps (s : State) : s.resetSweeps.sweeps = { s.sweeps with table := s.sweeps.table.map (fun _ => none), stallTimer := none } := rfl
@[simp] theorem State.resetSweeps_engine (s : State) : s.resetSweeps.engine = ⟨[], none⟩ := rfl
@[simp] theorem State.resetSweeps_pilots (s : State) : s.resetSweeps.pilots = s.pilots.map (fun p => { p with useCount := 0 }) := rfl
@[simp] theorem State.resetSweeps_channels (s : State) : s.resetSweeps.channels = s.channels := rfl
@[simp] theorem State.resetSweeps_directory (s : State) : s.resetSweeps.directory = s.directory := rfl
@[simp] theorem State.resetSweeps_stackUnit (s : State) : s.resetSweeps.stackUnit = s.stackUnit := rfl
@[simp] theorem State.resetSweeps_drq (s : State) : s.resetSweeps.drq = s.drq := rfl
@[simp] theorem State.resetSweeps_pwb (s : State) : s.resetSweeps.pwb = s.pwb := rfl
@[simp] theorem State.resetSweeps_held (s : State) : s.resetSweeps.held = s.held := rfl
@[simp] theorem State.resetSweeps_answer (s : State) : s.resetSweeps.answer = s.answer := rfl
@[simp] theorem State.resetSweeps_port (s : State) : s.resetSweeps.port = s.port.abandon .engine := rfl
@[simp] theorem State.resetSweeps_commands (s : State) : s.resetSweeps.commands = s.commands := rfl
@[simp] theorem State.resetSweeps_reports (s : State) : s.resetSweeps.reports = s.reports := rfl
@[simp] theorem State.resetSweeps_memory (s : State) : s.resetSweeps.memory = s.memory := rfl
@[simp] theorem State.resetSweeps_pending (s : State) : s.resetSweeps.pending = s.pending := rfl

/-! ### resetStackUnit -/

@[simp] theorem State.resetStackUnit_geometry (s : State) : s.resetStackUnit.geometry = s.geometry := rfl
@[simp] theorem State.resetStackUnit_windows (s : State) : s.resetStackUnit.windows = s.windows := rfl
@[simp] theorem State.resetStackUnit_cbase (s : State) : s.resetStackUnit.cbase = s.cbase := rfl
@[simp] theorem State.resetStackUnit_mode (s : State) : s.resetStackUnit.mode = s.mode := rfl
@[simp] theorem State.resetStackUnit_requestedMode (s : State) : s.resetStackUnit.requestedMode = s.requestedMode := rfl
@[simp] theorem State.resetStackUnit_assembler (s : State) : s.resetStackUnit.assembler = s.assembler := rfl
@[simp] theorem State.resetStackUnit_sweeps (s : State) : s.resetStackUnit.sweeps = s.sweeps := rfl
@[simp] theorem State.resetStackUnit_engine (s : State) : s.resetStackUnit.engine = s.engine := rfl
@[simp] theorem State.resetStackUnit_pilots (s : State) : s.resetStackUnit.pilots = s.pilots := rfl
@[simp] theorem State.resetStackUnit_channels (s : State) : s.resetStackUnit.channels = s.channels := rfl
@[simp] theorem State.resetStackUnit_directory (s : State) : s.resetStackUnit.directory = s.directory := rfl
@[simp] theorem State.resetStackUnit_stackUnit (s : State) : s.resetStackUnit.stackUnit = ⟨[], none⟩ := rfl
@[simp] theorem State.resetStackUnit_drq (s : State) : s.resetStackUnit.drq = s.drq := rfl
@[simp] theorem State.resetStackUnit_pwb (s : State) : s.resetStackUnit.pwb = s.pwb := rfl
@[simp] theorem State.resetStackUnit_held (s : State) : s.resetStackUnit.held = s.held := rfl
@[simp] theorem State.resetStackUnit_answer (s : State) : s.resetStackUnit.answer = s.answer := rfl
@[simp] theorem State.resetStackUnit_port (s : State) : s.resetStackUnit.port = s.port.abandon .stackUnit := rfl
@[simp] theorem State.resetStackUnit_commands (s : State) : s.resetStackUnit.commands = s.commands := rfl
@[simp] theorem State.resetStackUnit_reports (s : State) : s.resetStackUnit.reports = s.reports := rfl
@[simp] theorem State.resetStackUnit_memory (s : State) : s.resetStackUnit.memory = s.memory := rfl
@[simp] theorem State.resetStackUnit_pending (s : State) : s.resetStackUnit.pending = s.pending := rfl

/-! ### changeMode -/

@[simp] theorem State.changeMode_geometry (s : State) (m r : Mode) (c : ModeCause) : (s.changeMode m r c).geometry = s.geometry := rfl
@[simp] theorem State.changeMode_windows (s : State) (m r : Mode) (c : ModeCause) : (s.changeMode m r c).windows = s.windows := rfl
@[simp] theorem State.changeMode_cbase (s : State) (m r : Mode) (c : ModeCause) : (s.changeMode m r c).cbase = s.cbase := rfl
@[simp] theorem State.changeMode_mode (s : State) (m r : Mode) (c : ModeCause) : (s.changeMode m r c).mode = m := rfl
@[simp] theorem State.changeMode_requestedMode (s : State) (m r : Mode) (c : ModeCause) : (s.changeMode m r c).requestedMode = r := rfl
@[simp] theorem State.changeMode_assembler (s : State) (m r : Mode) (c : ModeCause) : (s.changeMode m r c).assembler = s.assembler := rfl
@[simp] theorem State.changeMode_sweeps (s : State) (m r : Mode) (c : ModeCause) : (s.changeMode m r c).sweeps = s.sweeps := rfl
@[simp] theorem State.changeMode_engine (s : State) (m r : Mode) (c : ModeCause) : (s.changeMode m r c).engine = s.engine := rfl
@[simp] theorem State.changeMode_pilots (s : State) (m r : Mode) (c : ModeCause) : (s.changeMode m r c).pilots = s.pilots := rfl
@[simp] theorem State.changeMode_channels (s : State) (m r : Mode) (c : ModeCause) : (s.changeMode m r c).channels = s.channels := rfl
@[simp] theorem State.changeMode_directory (s : State) (m r : Mode) (c : ModeCause) : (s.changeMode m r c).directory = s.directory := rfl
@[simp] theorem State.changeMode_stackUnit (s : State) (m r : Mode) (c : ModeCause) : (s.changeMode m r c).stackUnit = s.stackUnit := rfl
@[simp] theorem State.changeMode_drq (s : State) (m r : Mode) (c : ModeCause) : (s.changeMode m r c).drq = s.drq := rfl
@[simp] theorem State.changeMode_pwb (s : State) (m r : Mode) (c : ModeCause) : (s.changeMode m r c).pwb = s.pwb := rfl
@[simp] theorem State.changeMode_held (s : State) (m r : Mode) (c : ModeCause) : (s.changeMode m r c).held = s.held := rfl
@[simp] theorem State.changeMode_answer (s : State) (m r : Mode) (c : ModeCause) : (s.changeMode m r c).answer = s.answer := rfl
@[simp] theorem State.changeMode_port (s : State) (m r : Mode) (c : ModeCause) : (s.changeMode m r c).port = s.port := rfl
@[simp] theorem State.changeMode_commands (s : State) (m r : Mode) (c : ModeCause) : (s.changeMode m r c).commands = s.commands := rfl
@[simp] theorem State.changeMode_reports (s : State) (m r : Mode) (c : ModeCause) : (s.changeMode m r c).reports = s.reports.submit s.assembler.newest .modeChanged s.mode.code none (modeChangedDetail m c) := rfl
@[simp] theorem State.changeMode_memory (s : State) (m r : Mode) (c : ModeCause) : (s.changeMode m r c).memory = s.memory := rfl
@[simp] theorem State.changeMode_pending (s : State) (m r : Mode) (c : ModeCause) : (s.changeMode m r c).pending = s.pending := rfl

end Sys2Proof.Machine
end

