-- ==== Sys2Proof/Laws/Frames.lean ====
section
/-! SUPPORT. What each shared operation leaves alone. `base` gathers what no internal work of the part changes, `calm` what only the
Scan Assembler, the end of a PROCESS, and Mode Control change. One lemma `<operation>_base` (and `<operation>_calm`) for each
operation, which later proofs cite instead of unfolding it. -/

namespace Sys2Proof.Machine

/-- What the part's internal work leaves alone: memory, the queues outside, the settings, and the size of every table. -/
def State.base (s : State) :=
  (s.memory, s.pending, s.cbase, s.geometry, s.windows, s.pwb, s.held, s.answer, s.port.forwardSlice, s.port.partSlice,
    s.sweeps.stallPeriod, s.drq.period, s.sizes)

/-- The modes and the Scan Assembler. -/
def State.calm (s : State) := (s.mode, s.requestedMode, s.assembler)

/-! ### The port -/

/-- The slice settings of a port. -/
def Port.slices (p : Port) := (p.forwardSlice, p.partSlice)

@[simp] theorem Port.setClient_slices (p : Port) (c : Client) (x : ClientPort) : (p.setClient c x).slices = p.slices := by
  cases c <;> rfl

@[simp] theorem Port.beginsToWait_slices (p q : Port) (side : Side) : (p.beginsToWait q side).slices = q.slices := by
  unfold Port.beginsToWait
  split <;> rfl

@[simp] theorem Port.present_slices (p : Port) (c : Client) (t : Transfer) : (p.present c t).slices = p.slices := by
  unfold Port.present
  split <;> simp

@[simp] theorem Port.presentForward_slices (p : Port) (x : ForwardSource) (t : Transfer) : (p.presentForward x t).slices = p.slices := by
  unfold Port.presentForward
  rw [Port.beginsToWait_slices]
  rfl

@[simp] theorem Port.abandon_slices (p : Port) (c : Client) : (p.abandon c).slices = p.slices := Port.setClient_slices _ _ _

@[simp] theorem Port.sweepLeft_slices (p : Port) (w : Option EngineWork) (e : Nat) : (p.sweepLeft w e).slices = p.slices := by
  unfold Port.sweepLeft
  split <;> rfl

@[simp] theorem Port.clientAnswered_slices (p : Port) (c : Client) : (p.clientAnswered c).slices = p.slices := by
  unfold Port.clientAnswered
  simp only
  split
  · exact Port.setClient_slices _ _ _
  · rw [Port.present_slices]
    exact Port.setClient_slices _ _ _

@[simp] theorem Port.forwardAnswered_slices (p : Port) : p.forwardAnswered.slices = p.slices := rfl

@[simp] theorem Port.issue_slices (p : Port) (side : Side) : (p.issue side).slices = p.slices := by
  unfold Port.issue
  repeat' split
  all_goals rfl

@[simp] theorem Port.arbitrate_slices (p : Port) : p.arbitrate.slices = p.slices := by
  unfold Port.arbitrate
  repeat' split
  all_goals first
    | rfl
    | (rw [Port.issue_slices]; try rfl)

@[simp] theorem Port.busy_slices (p : Port) : p.busy.slices = p.slices := by
  unfold Port.busy
  repeat' split
  · rfl
  · rfl
  · rfl
  · exact Port.setClient_slices _ _ _

theorem State.presentReport_slices (s : State) : s.presentReport.1.slices = s.port.slices := by
  unfold State.presentReport
  repeat' split
  all_goals simp

theorem State.presentFetch_slices (s : State) (p : Port) : (s.presentFetch p).slices = p.slices := by
  unfold State.presentFetch
  repeat' split
  all_goals first
    | rfl
    | exact Port.present_slices _ _ _

theorem State.presentDelivery_slices (s : State) (p : Port) : (s.presentDelivery p).slices = p.slices := by
  unfold State.presentDelivery
  split <;> simp

/-- The base of a state from its parts: two states with these parts equal have one base. -/
theorem State.base_port (s : State) (p : Port) (h : p.slices = s.port.slices) : ({ s with port := p } : State).base = s.base := by
  have h1 : p.forwardSlice = s.port.forwardSlice := congrArg Prod.fst h
  have h2 : p.partSlice = s.port.partSlice := congrArg Prod.snd h
  simp [State.base, h1, h2, State.sizes]

/-- A Report Unit of as many mirror marks leaves the base alone. -/
theorem State.base_reports (s : State) (r : Reports) (h : r.stale.length = s.reports.stale.length) :
    ({ s with reports := r } : State).base = s.base := by
  simp [State.base, State.sizes, h]

/-! ### The boundary of an event -/

@[simp] theorem State.settle_base (s : State) : s.settle.base = s.base := by
  have h : (s.presentDelivery (s.presentFetch s.presentReport.1)).arbitrate.slices = s.port.slices := by
    rw [Port.arbitrate_slices, State.presentDelivery_slices, State.presentFetch_slices, State.presentReport_slices]
  have h1 := State.base_port s _ h
  have h2 := State.base_reports ({ s with port := (s.presentDelivery (s.presentFetch s.presentReport.1)).arbitrate }) s.presentReport.2
    (State.presentReport_staleLength s)
  exact h2.trans h1

@[simp] theorem State.settle_calm (s : State) : s.settle.calm = s.calm := rfl

/-- An event that is due answers its effect between two boundaries. -/
theorem State.event_due {due : State → Bool} {effect : State → State} {s : State} (h : due s.settle = true) :
    State.event due effect s = .next (effect s.settle).settle := by
  simp [State.event, h]

/-- The same, for a name of the state in which the event takes place. -/
theorem State.event_at {due : State → Bool} {effect : State → State} {s m : State} (hm : m = s.settle) (h : due m = true) :
    State.event due effect s = .next (effect m).settle := by
  subst hm
  exact State.event_due h

/-- A command at the head of the queue, in a mode that allows it, answers its rule. -/
theorem State.command_at {k : CommandKind} {rule : QueueEntry → State → State} {s m : State} {q : QueueEntry} (hm : m = s.settle)
    (h : m.heads k q) : State.command k rule s = .next (rule q m).settle := by
  obtain ⟨h1, h2, h3, h4⟩ := h
  obtain ⟨rest, hq⟩ : ∃ rest, m.commands.queue = q :: rest := by
    cases hl : m.commands.queue with
    | nil => simp [hl] at h2
    | cons x xs => exact ⟨xs, by simp_all⟩
  unfold State.command
  rw [State.event_at hm (by simp [State.commandDue, h1, hq, h3])]
  simp [State.beginCommand, hq, h4]

/-- An event that is not itself due at once answers its effect on the state that is caught up. -/
theorem State.laterEvent_at {due : State → Bool} {effect : State → State} {s m : State} (hm : m = s.caughtUp) (h : due m = true) :
    State.laterEvent due effect s = .next (effect m).settle := by
  subst hm
  simp [State.laterEvent, h]

/-- One that is not due changes nothing. -/
theorem State.laterEvent_idle {due : State → Bool} {effect : State → State} {s : State} (h : due s.caughtUp = false) :
    State.laterEvent due effect s = .next s := by
  simp [State.laterEvent, h]

/-- All that an event which is not itself due at once can do. -/
theorem State.laterEvent_next {due : State → Bool} {effect : State → State} {s t : State} (h : State.laterEvent due effect s = .next t) :
    t = s ∨ due s.caughtUp = true ∧ t = (effect s.caughtUp).settle := by
  unfold State.laterEvent at h
  split at h
  · rename_i hd
    injection h with h
    exact Or.inr ⟨hd, h.symm⟩
  · injection h with h
    exact Or.inl h.symm

/-- A write transaction that the port takes is decided, whichever row names it. -/
theorem State.writeRow_at {s f : State} {q : Requester} {a : Address} {data : List Word} {i : Instr} (hf : f = s.caughtUp)
    (hh : f.held = none) (hi : i ∈ writeRows q a data) : exec i s = .next (f.decideWrite q a.toNat data).settle := by
  have h : State.writeTransaction q a data s = .next (f.decideWrite q a.toNat data).settle :=
    State.laterEvent_at hf (by simp [State.portFree, hh])
  simp only [writeRows, List.mem_cons, List.not_mem_nil, or_false] at hi
  rcases hi with rfl | rfl | rfl <;> exact h

/-- The same of a read transaction. -/
theorem State.readRow_at {s f : State} {q : Requester} {a : Address} {n : Nat} (hf : f = s.caughtUp) (hh : f.held = none) :
    exec (.upstreamRead q a n) s = .next (f.readTransaction q a.toNat n).settle :=
  State.laterEvent_at hf (by simp [State.portFree, hh])

/-- A property that the boundary work and the steps due at once keep holds of the state that is caught up. -/
theorem State.caughtUp_keeps {P : State → Prop} (settle : ∀ s, P s → P s.settle) (step : ∀ s, P s → P s.atOnce) {s : State} (h : P s) :
    P s.caughtUp := by
  have catchUp : ∀ (n : Nat) (x : State), P x → P (State.catchUp n x) := by
    intro n
    induction n with
    | zero => exact fun _ hx => hx
    | succ n ih =>
      intro x hx
      unfold State.catchUp
      split
      · exact ih _ (settle _ (step _ hx))
      · exact hx
  exact catchUp _ _ (settle _ h)

/-- Nothing is due at once: the state that is caught up is the one with its boundary work done. -/
theorem State.caughtUp_quiet {s : State} (h : s.settle.overdue = false) : s.caughtUp = s.settle := by
  have catchUp : ∀ n, State.catchUp n s.settle = s.settle := by
    intro n
    cases n with
    | zero => rfl
    | succ n => simp [State.catchUp, h]
  exact catchUp _

/-- An event that is not due changes nothing. -/
theorem State.event_idle {due : State → Bool} {effect : State → State} {s : State} (h : due s.settle = false) :
    State.event due effect s = .next s := by
  simp [State.event, h]

/-- All that an event can do. -/
theorem State.event_next {due : State → Bool} {effect : State → State} {s t : State} (h : State.event due effect s = .next t) :
    t = s ∨ due s.settle = true ∧ t = (effect s.settle).settle := by
  unfold State.event at h
  split at h
  · rename_i hd
    injection h with h
    exact Or.inr ⟨hd, h.symm⟩
  · injection h with h
    exact Or.inl h.symm

/-! ### Primitive updates -/

@[simp] theorem State.setSweep_base (s : State) (e : Nat) (w : Option Sweep) : (s.setSweep e w).base = s.base := by
  simp [State.base, State.sizes]
@[simp] theorem State.setSlot_base (s : State) (i : Nat) (d : DirEntry) : (s.setSlot i d).base = s.base := by
  simp [State.base, State.sizes]
@[simp] theorem State.setPilot_base (s : State) (i : Nat) (p : PilotEntry) : (s.setPilot i p).base = s.base := by
  simp [State.base, State.sizes]
@[simp] theorem State.setChannel_base (s : State) (c : Nat) (x : Channel) : (s.setChannel c x).base = s.base := by
  simp [State.base, State.sizes]
@[simp] theorem State.appendStackItem_base (s : State) (i : StackItem) : (s.appendStackItem i).base = s.base := rfl
@[simp] theorem State.submit_base (s : State) (k : ReportKind) (n : Nat) (q : Option Requester) (x : Nat) :
    (s.submit k n q x).base = s.base := State.base_reports s _ (by simp)
@[simp] theorem State.partFault_base (s : State) (op : PartOperation) (n : Nat) : (s.partFault op n).base = s.base :=
  State.submit_base s _ _ _ _
@[simp] theorem State.present_base (s : State) (c : Client) (t : Transfer) : (s.present c t).base = s.base :=
  State.base_port s _ (by simp)
@[simp] theorem State.setCommandSlot_base (s : State) (j : Nat) (c : CommandSlot) : (s.setCommandSlot j c).base = s.base := by
  simp [State.base, State.sizes]
@[simp] theorem State.setProgress_base (s : State) (p : CommandProgress) : (s.setProgress p).base = s.base := rfl
@[simp] theorem State.mapSweeps_base (s : State) (f : Sweep → Sweep) : (s.mapSweeps f).base = s.base := by
  simp [State.base, State.sizes, State.mapSweeps]
@[simp] theorem State.muteSweeps_base (s : State) (c : Nat) : (s.muteSweeps c).base = s.base := State.mapSweeps_base s _
@[simp] theorem State.resumeStalled_base (s : State) : s.resumeStalled.base = s.base := State.mapSweeps_base s _
@[simp] theorem State.reloadStall_base (s : State) : s.reloadStall.base = s.base := rfl
@[simp] theorem State.setDrq_base (s : State) (i : Nat) (e : Option DrqEntry) : (s.setDrq i e).base = s.base := by
  simp [State.base, State.sizes]
@[simp] theorem State.freeDrq_base (s : State) (i : Nat) : (s.freeDrq i).base = s.base := by
  simp [State.base, State.sizes, State.freeDrq]
@[simp] theorem State.issueEngine_base (s : State) (w : EngineWork) (t : Transfer) : (s.issueEngine w t).base = s.base := by
  unfold State.issueEngine
  rw [State.present_base]
  rfl
@[simp] theorem State.issueStack_base (s : State) (w : StackWork) (t : Transfer) : (s.issueStack w t).base = s.base := by
  unfold State.issueStack
  rw [State.present_base]
  rfl
@[simp] theorem State.stackItemEnds_base (s : State) : s.stackItemEnds.base = s.base := rfl
@[simp] theorem State.finishProcess_base (s : State) (t : Nat) : (s.finishProcess t).base = s.base := rfl
@[simp] theorem State.changeMode_base (s : State) (m r : Mode) (c : ModeCause) : (s.changeMode m r c).base = s.base := by
  unfold State.changeMode
  rw [State.submit_base]
  rfl
@[simp] theorem State.resetSweeps_base (s : State) : s.resetSweeps.base = s.base := by
  have h : (s.port.abandon .engine).slices = s.port.slices := by simp
  have h1 : (s.port.abandon .engine).forwardSlice = s.port.forwardSlice := congrArg Prod.fst h
  have h2 : (s.port.abandon .engine).partSlice = s.port.partSlice := congrArg Prod.snd h
  simp [State.base, State.sizes, State.resetSweeps, h1, h2]
@[simp] theorem State.resetStackUnit_base (s : State) : s.resetStackUnit.base = s.base := by
  have h := State.base_port s (s.port.abandon .stackUnit) (by simp)
  exact h

@[simp] theorem State.setSweep_calm (s : State) (e : Nat) (w : Option Sweep) : (s.setSweep e w).calm = s.calm := rfl
@[simp] theorem State.setSlot_calm (s : State) (i : Nat) (d : DirEntry) : (s.setSlot i d).calm = s.calm := rfl
@[simp] theorem State.setPilot_calm (s : State) (i : Nat) (p : PilotEntry) : (s.setPilot i p).calm = s.calm := rfl
@[simp] theorem State.setChannel_calm (s : State) (c : Nat) (x : Channel) : (s.setChannel c x).calm = s.calm := rfl
@[simp] theorem State.appendStackItem_calm (s : State) (i : StackItem) : (s.appendStackItem i).calm = s.calm := rfl
@[simp] theorem State.submit_calm (s : State) (k : ReportKind) (n : Nat) (q : Option Requester) (x : Nat) :
    (s.submit k n q x).calm = s.calm := rfl
@[simp] theorem State.partFault_calm (s : State) (op : PartOperation) (n : Nat) : (s.partFault op n).calm = s.calm := rfl
@[simp] theorem State.present_calm (s : State) (c : Client) (t : Transfer) : (s.present c t).calm = s.calm := rfl
@[simp] theorem State.setCommandSlot_calm (s : State) (j : Nat) (c : CommandSlot) : (s.setCommandSlot j c).calm = s.calm := rfl
@[simp] theorem State.setProgress_calm (s : State) (p : CommandProgress) : (s.setProgress p).calm = s.calm := rfl
@[simp] theorem State.mapSweeps_calm (s : State) (f : Sweep → Sweep) : (s.mapSweeps f).calm = s.calm := rfl
@[simp] theorem State.muteSweeps_calm (s : State) (c : Nat) : (s.muteSweeps c).calm = s.calm := rfl
@[simp] theorem State.resumeStalled_calm (s : State) : s.resumeStalled.calm = s.calm := rfl
@[simp] theorem State.reloadStall_calm (s : State) : s.reloadStall.calm = s.calm := rfl
@[simp] theorem State.setDrq_calm (s : State) (i : Nat) (e : Option DrqEntry) : (s.setDrq i e).calm = s.calm := rfl
@[simp] theorem State.freeDrq_calm (s : State) (i : Nat) : (s.freeDrq i).calm = s.calm := rfl
@[simp] theorem State.issueEngine_calm (s : State) (w : EngineWork) (t : Transfer) : (s.issueEngine w t).calm = s.calm := rfl
@[simp] theorem State.issueStack_calm (s : State) (w : StackWork) (t : Transfer) : (s.issueStack w t).calm = s.calm := rfl
@[simp] theorem State.stackItemEnds_calm (s : State) : s.stackItemEnds.calm = s.calm := rfl
@[simp] theorem State.resetSweeps_calm (s : State) : s.resetSweeps.calm = s.calm := rfl
@[simp] theorem State.resetStackUnit_calm (s : State) : s.resetStackUnit.calm = s.calm := rfl

end Sys2Proof.Machine
end

