-- ==== Sys2Proof/Laws/Effects.lean ====
section
/-! SUPPORT. `base` and `calm` under the composite operations: what taking an item, an answer, a command or a transaction leaves alone.
Cited by every proof about all states. -/

namespace Sys2Proof.Machine

/-- A run of operations that each leave the base alone. -/
theorem State.foldl_base {α : Type} (f : State → α → State) (h : ∀ s a, (f s a).base = s.base) (l : List α) :
    ∀ s : State, (l.foldl f s).base = s.base := by
  induction l with
  | nil => exact fun _ => rfl
  | cons a as ih => exact fun s => (ih (f s a)).trans (h s a)

/-- A run of operations that each leave the modes and the Scan Assembler alone. -/
theorem State.foldl_calm {α : Type} (f : State → α → State) (h : ∀ s a, (f s a).calm = s.calm) (l : List α) :
    ∀ s : State, (l.foldl f s).calm = s.calm := by
  induction l with
  | nil => exact fun _ => rfl
  | cons a as ih => exact fun s => (ih (f s a)).trans (h s a)

/-! ### Commands and sweeps -/

@[simp] theorem State.endCommand_base (s : State) (x : Status) (r : Option (List Word)) : (s.endCommand x r).base = s.base := by
  unfold State.endCommand
  repeat' split
  · rfl
  · simp [State.base, State.sizes]
  · simp [State.base, State.sizes]

@[simp] theorem State.endCommand_calm (s : State) (x : Status) (r : Option (List Word)) : (s.endCommand x r).calm = s.calm := by
  unfold State.endCommand
  repeat' split
  all_goals rfl

@[simp] theorem State.releasePilot_base (s : State) (p : PilotRef) : (s.releasePilot p).base = s.base := by
  cases p <;> simp [State.releasePilot]
@[simp] theorem State.releasePilot_calm (s : State) (p : PilotRef) : (s.releasePilot p).calm = s.calm := by
  cases p <;> rfl

@[simp] theorem State.stopIdleTimer_base (s : State) : s.stopIdleTimer.base = s.base := by
  unfold State.stopIdleTimer
  split <;> rfl
@[simp] theorem State.stopIdleTimer_calm (s : State) : s.stopIdleTimer.calm = s.calm := by
  unfold State.stopIdleTimer
  split <;> rfl

/-- A new engine leaves the base alone. -/
theorem State.engine_base (s : State) (g : Engine) : ({ s with engine := g } : State).base = s.base := rfl

@[simp] theorem State.leaveCorrelation_base (s : State) (e : Nat) (o : SweepOutcome) : (s.leaveCorrelation e o).base = s.base := by
  unfold State.leaveCorrelation
  split
  · rfl
  · simp only [State.stopIdleTimer_base, State.appendStackItem_base, State.releasePilot_base]
    exact (State.base_port _ _ (Port.sweepLeft_slices _ _ _)).trans ((State.engine_base _ _).trans (State.setSweep_base s e _))
@[simp] theorem State.leaveCorrelation_calm (s : State) (e : Nat) (o : SweepOutcome) : (s.leaveCorrelation e o).calm = s.calm := by
  unfold State.leaveCorrelation
  split
  · rfl
  · simp only [State.stopIdleTimer_calm, State.appendStackItem_calm, State.releasePilot_calm]
    rfl

@[simp] theorem State.leaveAll_base (s : State) (l : List Nat) (o : SweepOutcome) : (s.leaveAll l o).base = s.base :=
  State.foldl_base _ (fun s e => State.leaveCorrelation_base s e o) l s
@[simp] theorem State.leaveAll_calm (s : State) (l : List Nat) (o : SweepOutcome) : (s.leaveAll l o).calm = s.calm :=
  State.foldl_calm _ (fun s e => State.leaveCorrelation_calm s e o) l s
@[simp] theorem State.modeAbort_base (s : State) : s.modeAbort.base = s.base := State.leaveAll_base _ _ _
@[simp] theorem State.modeAbort_calm (s : State) : s.modeAbort.calm = s.calm := State.leaveAll_calm _ _ _

/-- A new Stall Timer leaves the base alone. -/
theorem State.timer_base (s : State) (t : Option Nat) :
    ({ s with sweeps := { s.sweeps with stallTimer := t } } : State).base = s.base := rfl

/-- A new Stall Timer leaves the modes and the Scan Assembler alone. -/
theorem State.timer_calm (s : State) (t : Option Nat) :
    ({ s with sweeps := { s.sweeps with stallTimer := t } } : State).calm = s.calm := rfl
/-- A new engine leaves the modes and the Scan Assembler alone. -/
theorem State.engine_calm (s : State) (g : Engine) : ({ s with engine := g } : State).calm = s.calm := rfl

@[simp] theorem State.stallExpire_base (s : State) : s.stallExpire.base = s.base := by
  unfold State.stallExpire
  simp only
  rw [State.timer_base]
  split <;> simp
@[simp] theorem State.stallExpire_calm (s : State) : s.stallExpire.calm = s.calm := by
  unfold State.stallExpire
  simp only
  rw [State.timer_calm]
  split <;> simp

@[simp] theorem State.claimPilot_base (s : State) (p : NoticePilot) : (s.claimPilot p).base = s.base := by
  cases p <;> simp [State.claimPilot]
@[simp] theorem State.claimPilot_calm (s : State) (p : NoticePilot) : (s.claimPilot p).calm = s.calm := by
  cases p <;> rfl

@[simp] theorem State.enterSweep_base (s : State) (o : NoticeOperands) (i e : Nat) : (s.enterSweep o i e).base = s.base := by
  unfold State.enterSweep
  simp only
  split
  all_goals exact (State.claimPilot_base ((s.setSweep e _).setSlot i _) o.pilot).trans (by simp)
@[simp] theorem State.enterSweep_calm (s : State) (o : NoticeOperands) (i e : Nat) : (s.enterSweep o i e).calm = s.calm := by
  unfold State.enterSweep
  simp only
  split
  all_goals exact (State.claimPilot_calm ((s.setSweep e _).setSlot i _) o.pilot).trans (by simp)

@[simp] theorem State.noticeRule_base (q : QueueEntry) (s : State) : (s.noticeRule q).base = s.base := by
  unfold State.noticeRule
  simp only
  split <;> simp
@[simp] theorem State.noticeRule_calm (q : QueueEntry) (s : State) : (s.noticeRule q).calm = s.calm := by
  unfold State.noticeRule
  simp only
  split <;> simp
@[simp] theorem State.cancelRule_base (q : QueueEntry) (s : State) : (s.cancelRule q).base = s.base := by
  unfold State.cancelRule
  repeat' split
  all_goals simp
@[simp] theorem State.cancelRule_calm (q : QueueEntry) (s : State) : (s.cancelRule q).calm = s.calm := by
  unfold State.cancelRule
  repeat' split
  all_goals simp
@[simp] theorem State.readSweepRule_base (q : QueueEntry) (s : State) : (s.readSweepRule q).base = s.base := by
  unfold State.readSweepRule
  split <;> simp
@[simp] theorem State.readSweepRule_calm (q : QueueEntry) (s : State) : (s.readSweepRule q).calm = s.calm := by
  unfold State.readSweepRule
  split <;> simp

/-! ### The Scan Assembler -/

/-- A new Scan Assembler leaves the base alone. -/
theorem State.assembler_base (s : State) (a : Assembler) : ({ s with assembler := a } : State).base = s.base := rfl

@[simp] theorem State.forceClose_base (s : State) (e : StagingEntry) : (s.forceClose e).base = s.base := by
  unfold State.forceClose
  simp only
  rw [State.submit_base, State.assembler_base]

@[simp] theorem State.noteScan_base (s : State) (w : RawWrite) (n : Nat) : (s.noteScan w n).base = s.base := by
  unfold State.noteScan
  simp only
  repeat' split
  · rfl
  · rw [State.submit_base, State.assembler_base]
  · rfl
@[simp] theorem State.closeSlot_base (s : State) (i : Nat) : (s.closeSlot i).base = s.base := by
  unfold State.closeSlot
  split <;> simp
@[simp] theorem State.stageScan_base (s : State) (i n : Nat) : (s.stageScan i n).base = s.base := rfl
@[simp] theorem State.limitFilling_base (s : State) : s.limitFilling.base = s.base := by
  unfold State.limitFilling
  repeat' split
  all_goals simp
@[simp] theorem State.openScan_base (s : State) (w : RawWrite) (n : Nat) : (s.openScan w n).base = s.base := by
  simp [State.openScan]

@[simp] theorem State.reportStray_base (s : State) : s.reportStray.base = s.base := by
  unfold State.reportStray
  split
  · rfl
  · rw [State.submit_base, State.assembler_base]

@[simp] theorem State.releaseScans_base (s : State) : s.releaseScans.base = s.base := by
  unfold State.releaseScans
  simp only
  repeat' split
  · rfl
  · simp only [State.reportStray_base, State.resumeStalled_base, State.reloadStall_base]
    rfl
  · simp only [State.submit_base, State.reportStray_base, State.resumeStalled_base, State.reloadStall_base]
    rfl

@[simp] theorem State.takeWords_base (s : State) (w : RawWrite) : (s.takeWords w).base = s.base := by
  unfold State.takeWords
  simp only [State.releaseScans_base]
  split <;> rfl

@[simp] theorem State.strayWords_base (s : State) (w : RawWrite) : (s.strayWords w).base = s.base := by
  unfold State.strayWords
  split <;> rfl

@[simp] theorem State.takeRawWrite_base (s : State) (w : RawWrite) : (s.takeRawWrite w).base = s.base := by
  unfold State.takeRawWrite
  split <;> simp

@[simp] theorem State.abandonProcess_base (s : State) : s.abandonProcess.base = s.base := by
  unfold State.abandonProcess
  split
  · exact State.base_port ({ s with engine := { s.engine with work := none } }) _ (by simp)
  · rfl
  · rfl
@[simp] theorem State.abandonProcess_calm (s : State) : s.abandonProcess.calm = s.calm := by
  unfold State.abandonProcess
  split <;> rfl

@[simp] theorem State.clearAssembler_base (s : State) : s.clearAssembler.base = s.base := by
  unfold State.clearAssembler
  rw [State.abandonProcess_base]
  rfl
theorem State.clearAssembler_calm (s : State) : s.clearAssembler.calm = (s.mode, s.requestedMode, ⟨[], none, none⟩) := by
  unfold State.clearAssembler
  rw [State.abandonProcess_calm]
  rfl

/-! ### The engine -/

@[simp] theorem State.continueClear_base (s : State) (e c : Nat) : (s.continueClear e c).base = s.base := by
  unfold State.continueClear
  repeat' split
  · rfl
  · rfl
  · simp
@[simp] theorem State.continueClear_calm (s : State) (e c : Nat) : (s.continueClear e c).calm = s.calm := by
  unfold State.continueClear
  repeat' split
  · rfl
  · rfl
  · simp

@[simp] theorem State.issueAccumulate_base (s : State) (t e : Nat) (w : Sweep) (f : Nat) (p : List PilotSample) (c l : Nat) :
    (s.issueAccumulate t e w f p c l).base = s.base := State.issueEngine_base _ _ _
@[simp] theorem State.issueAccumulate_calm (s : State) (t e : Nat) (w : Sweep) (f : Nat) (p : List PilotSample) (c l : Nat) :
    (s.issueAccumulate t e w f p c l).calm = s.calm := rfl

@[simp] theorem State.finishSweep_base (s : State) (t e : Nat) (w : Sweep) : (s.finishSweep t e w).base = s.base := by
  unfold State.finishSweep
  simp only
  split <;> simp
@[simp] theorem State.finishSweep_calm (s : State) (t e : Nat) (w : Sweep) : (s.finishSweep t e w).calm = s.calm := by
  unfold State.finishSweep
  simp only
  split <;> simp

@[simp] theorem State.serveChannels_base (s : State) (t e : Nat) (w : Sweep) (f : Nat) (p : List PilotSample) (cs : List Nat) :
    (s.serveChannels t e w f p cs).2.base = s.base := by
  unfold State.serveChannels
  simp only
  split <;> simp
@[simp] theorem State.serveChannels_calm (s : State) (t e : Nat) (w : Sweep) (f : Nat) (p : List PilotSample) (cs : List Nat) :
    (s.serveChannels t e w f p cs).2.calm = s.calm := by
  unfold State.serveChannels
  simp only
  split <;> simp

@[simp] theorem State.issuePilot_base (s : State) (t e : Nat) (w : Sweep) (f n : Nat) (got : List PilotSample) :
    (s.issuePilot t e w f n got).base = s.base := State.issueEngine_base _ _ _
@[simp] theorem State.issuePilot_calm (s : State) (t e : Nat) (w : Sweep) (f n : Nat) (got : List PilotSample) :
    (s.issuePilot t e w f n got).calm = s.calm := rfl

@[simp] theorem State.servePilot_base (s : State) (t e : Nat) (w : Sweep) : (s.servePilot t e w).2.base = s.base := by
  unfold State.servePilot
  split <;> simp
@[simp] theorem State.servePilot_calm (s : State) (t e : Nat) (w : Sweep) : (s.servePilot t e w).2.calm = s.calm := by
  unfold State.servePilot
  split <;> simp

@[simp] theorem State.serveCapture_base (s : State) (t e : Nat) (w : Sweep) : (s.serveCapture t e w).2.base = s.base := by
  unfold State.serveCapture
  simp only
  repeat' split
  all_goals simp
@[simp] theorem State.serveCapture_calm (s : State) (t e : Nat) (w : Sweep) : (s.serveCapture t e w).2.calm = s.calm := by
  unfold State.serveCapture
  simp only
  repeat' split
  all_goals simp

@[simp] theorem State.serveSweep_base (s : State) (t e : Nat) (w : Sweep) : (s.serveSweep t e w).2.base = s.base := by
  unfold State.serveSweep
  simp only
  split <;> simp
@[simp] theorem State.serveSweep_calm (s : State) (t e : Nat) (w : Sweep) : (s.serveSweep t e w).2.calm = s.calm := by
  unfold State.serveSweep
  simp only
  split <;> simp

@[simp] theorem State.serveFrom_base (t : Nat) : ∀ (l : List Nat) (s : State), (State.serveFrom t l s).base = s.base
  | [], s => by simp [State.serveFrom]
  | e :: rest, s => by
    unfold State.serveFrom
    split
    · exact State.serveFrom_base t rest s
    · rename_i w _
      split
      · have h := State.serveSweep_base s t e w
        split
        · rename_i s1 hs
          rw [hs] at h
          exact h
        · rename_i s1 hs
          rw [hs] at h
          exact (State.serveFrom_base t rest s1).trans h
      · exact State.serveFrom_base t rest s

@[simp] theorem State.serveRest_base (s : State) (t e : Nat) : (s.serveRest t e).base = s.base := by
  unfold State.serveRest
  rw [State.serveFrom_base]
  rfl

@[simp] theorem State.serveOn_base (t e : Nat) (r : Bool × State) : (State.serveOn t e r).base = r.2.base := by
  obtain ⟨b, s⟩ := r
  cases b <;> simp [State.serveOn]

@[simp] theorem State.skipWork_base (s : State) (w : EngineWork) : (s.skipWork w).base = s.base := by
  unfold State.skipWork
  split
  · rfl
  · simp

@[simp] theorem State.discardedAnswer_base (s : State) (c : Client) : (s.discardedAnswer c).base = s.base := by
  unfold State.discardedAnswer
  repeat' split
  all_goals first
    | rfl
    | exact State.skipWork_base _ _

@[simp] theorem State.processAnswered_base (s : State) (t e : Nat) (w : Sweep) (ws : List Word) (p : ProcessPhase) :
    (s.processAnswered t e w ws p).2.base = s.base := by
  cases p with
  | capture => exact State.servePilot_base s t e w
  | pilot f n g =>
    simp only [State.processAnswered, State.pilotRead]
    split <;> simp
  | accumulateRead f p c l n =>
    simp only [State.processAnswered, State.writeBack]
    split <;> simp
  | accumulateWrite f p c l n =>
    simp only [State.processAnswered, State.nextPiece]
    split <;> simp
@[simp] theorem State.processAnswered_calm (s : State) (t e : Nat) (w : Sweep) (ws : List Word) (p : ProcessPhase) :
    (s.processAnswered t e w ws p).2.calm = s.calm := by
  cases p with
  | capture => exact State.servePilot_calm s t e w
  | pilot f n g =>
    simp only [State.processAnswered, State.pilotRead]
    split <;> simp
  | accumulateRead f p c l n =>
    simp only [State.processAnswered, State.writeBack]
    split <;> simp
  | accumulateWrite f p c l n =>
    simp only [State.processAnswered, State.nextPiece]
    split <;> simp

@[simp] theorem State.engineAnswered_base (s : State) (ok : Bool) (ws : List Word) : (s.engineAnswered ok ws).base = s.base := by
  unfold State.engineAnswered
  repeat' split
  all_goals simp

@[simp] theorem State.takeClear_base (s : State) : s.takeClear.base = s.base := by
  unfold State.takeClear
  split
  · rw [State.continueClear_base]
    rfl
  · rfl
@[simp] theorem State.takeClear_calm (s : State) : s.takeClear.calm = s.calm := by
  unfold State.takeClear
  split
  · rw [State.continueClear_calm]
    rfl
  · rfl

@[simp] theorem State.takeProcess_base (s : State) : s.takeProcess.base = s.base := by
  unfold State.takeProcess
  split
  · rw [State.serveFrom_base]
    rfl
  · rfl

/-! ### The Deferred Read Queue and the channels -/

@[simp] theorem State.discardRead_base (s : State) (r : DiscardReason) (p : Nat × DrqEntry) : (s.discardRead r p).base = s.base := by
  simp [State.discardRead]
@[simp] theorem State.discardRead_calm (s : State) (r : DiscardReason) (p : Nat × DrqEntry) : (s.discardRead r p).calm = s.calm := rfl
@[simp] theorem State.discardSlot_base (s : State) (i : Nat) (r : DiscardReason) : (s.discardSlot i r).base = s.base :=
  State.foldl_base _ (fun s p => State.discardRead_base s r p) _ s
@[simp] theorem State.discardSlot_calm (s : State) (i : Nat) (r : DiscardReason) : (s.discardSlot i r).calm = s.calm :=
  State.foldl_calm _ (fun s p => State.discardRead_calm s r p) _ s
@[simp] theorem State.reloadDrq_base (s : State) (i : Nat) (e : DrqEntry) : (s.reloadDrq i e).base = s.base := State.setDrq_base _ _ _
@[simp] theorem State.reloadDrq_calm (s : State) (i : Nat) (e : DrqEntry) : (s.reloadDrq i e).calm = s.calm := rfl

@[simp] theorem State.deferRead_base (s : State) (q : Requester) (a n i : Nat) : (s.deferRead q a n i).2.base = s.base := by
  unfold State.deferRead
  repeat' split
  all_goals simp
@[simp] theorem State.deferRead_calm (s : State) (q : Requester) (a n i : Nat) : (s.deferRead q a n i).2.calm = s.calm := by
  unfold State.deferRead
  repeat' split
  all_goals simp

theorem State.sealedRead_base (s : State) (q : Requester) (a n : Nat) (r : UpstreamAnswer × State) (h : s.sealedRead q a n = some r) :
    r.2.base = s.base ∧ r.2.calm = s.calm := by
  unfold State.sealedRead at h
  split at h
  · cases h
  · split at h
    all_goals cases h
    all_goals simp

@[simp] theorem State.fetchAtSeal_base (s : State) (i : Nat) : (s.fetchAtSeal i).base = s.base := by
  simp [State.base, State.sizes, State.fetchAtSeal]
@[simp] theorem State.fetchAtSeal_calm (s : State) (i : Nat) : (s.fetchAtSeal i).calm = s.calm := rfl

/-- Another entry for which the fetch was issued leaves the base alone. -/
theorem State.fetchFor_base (s : State) (f : Option Nat) : ({ s with port := { s.port with fetchFor := f } } : State).base = s.base := rfl
/-- Another fetch order leaves the base alone. -/
theorem State.fetchOrder_base (s : State) (l : List Nat) : ({ s with drq := { s.drq with fetchOrder := l } } : State).base = s.base := rfl

@[simp] theorem State.fetchAnswered_base (s : State) (ok : Bool) (ws : List Word) : (s.fetchAnswered ok ws).base = s.base := by
  unfold State.fetchAnswered
  simp only
  repeat' split
  all_goals simp only [State.submit_base, State.fetchFor_base, State.fetchOrder_base, State.setDrq_base]
@[simp] theorem State.fetchAnswered_calm (s : State) (ok : Bool) (ws : List Word) : (s.fetchAnswered ok ws).calm = s.calm := by
  unfold State.fetchAnswered
  simp only
  repeat' split
  all_goals rfl

@[simp] theorem State.countDown_base (s : State) (i : Nat) : (s.countDown i).base = s.base := by
  unfold State.countDown
  repeat' split
  all_goals simp
@[simp] theorem State.countDown_calm (s : State) (i : Nat) : (s.countDown i).calm = s.calm := by
  unfold State.countDown
  repeat' split
  all_goals simp

@[simp] theorem State.channelMuted_base (s : State) (c : Nat) (x : ConditionCause) : (s.channelMuted c x).base = s.base := by
  simp [State.channelMuted]
@[simp] theorem State.channelMuted_calm (s : State) (c : Nat) (x : ConditionCause) : (s.channelMuted c x).calm = s.calm := rfl
@[simp] theorem State.conditionChanged_base (s : State) (c n : Nat) (x y : Condition) : (s.conditionChanged c n x y).base = s.base := by
  unfold State.conditionChanged
  split <;> simp
@[simp] theorem State.conditionChanged_calm (s : State) (c n : Nat) (x y : Condition) : (s.conditionChanged c n x y).calm = s.calm := by
  unfold State.conditionChanged
  split <;> simp
@[simp] theorem State.applyVerdict_base (s : State) (c l : Nat) (v : Verdict) : (s.applyVerdict c l v).base = s.base := by
  unfold State.applyVerdict
  simp only
  split <;> simp
@[simp] theorem State.applyVerdict_calm (s : State) (c l : Nat) (v : Verdict) : (s.applyVerdict c l v).calm = s.calm := by
  unfold State.applyVerdict
  simp only
  split <;> simp

@[simp] theorem State.muteRule_base (q : QueueEntry) (s : State) : (s.muteRule q).base = s.base := by
  unfold State.muteRule
  simp only
  repeat' split
  all_goals simp
@[simp] theorem State.muteRule_calm (q : QueueEntry) (s : State) : (s.muteRule q).calm = s.calm := by
  unfold State.muteRule
  simp only
  repeat' split
  all_goals simp
@[simp] theorem State.unmuteRule_base (q : QueueEntry) (s : State) : (s.unmuteRule q).base = s.base := by
  unfold State.unmuteRule
  simp only
  repeat' split
  all_goals simp
@[simp] theorem State.unmuteRule_calm (q : QueueEntry) (s : State) : (s.unmuteRule q).calm = s.calm := by
  unfold State.unmuteRule
  simp only
  repeat' split
  all_goals simp
@[simp] theorem State.readChannelRule_base (q : QueueEntry) (s : State) : (s.readChannelRule q).base = s.base := by
  unfold State.readChannelRule
  simp only
  split <;> simp
@[simp] theorem State.readChannelRule_calm (q : QueueEntry) (s : State) : (s.readChannelRule q).calm = s.calm := by
  unfold State.readChannelRule
  simp only
  split <;> simp

/-! ### Modes -/

@[simp] theorem State.enterIdle_base (s : State) (c : ModeCause) : (s.enterIdle c).base = s.base := by
  unfold State.enterIdle
  simp only
  rw [State.changeMode_base, State.timer_base, State.clearAssembler_base]

/-- Entry into IDLE leaves both mode values IDLE and the Scan Assembler empty. -/
theorem State.enterIdle_calm (s : State) (c : ModeCause) : (s.enterIdle c).calm = (.idle, .idle, ⟨[], none, none⟩) := by
  have h := State.clearAssembler_calm s
  have h2 : s.clearAssembler.assembler = ⟨[], none, none⟩ := congrArg (fun x => x.2.2) h
  change (Mode.idle, Mode.idle, s.clearAssembler.assembler) = _
  rw [h2]

@[simp] theorem State.drainEnd_base (s : State) : s.drainEnd.base = s.base := by
  unfold State.drainEnd
  split <;> simp

@[simp] theorem State.applyAbort_base (s : State) (n : Nat) : (s.applyAbort n).base = s.base := by
  unfold State.applyAbort
  split <;> simp
@[simp] theorem State.applyAbort_calm (s : State) (n : Nat) : (s.applyAbort n).calm = s.calm := by
  unfold State.applyAbort
  split <;> simp
@[simp] theorem State.leaveAcquire_base (s : State) : s.leaveAcquire.base = s.base := by
  unfold State.leaveAcquire
  split <;> simp
@[simp] theorem State.setMode_base (s : State) (m : Mode) (n : Nat) : (s.setMode m n).base = s.base := by
  unfold State.setMode
  repeat' split
  all_goals simp
@[simp] theorem State.setModeRule_base (q : QueueEntry) (s : State) : (s.setModeRule q).base = s.base := by
  unfold State.setModeRule
  repeat' split
  all_goals simp

/-! ### The Stack Unit -/

@[simp] theorem State.claimSlot_base (s : State) (o : OpenOperands) (i : Nat) : (s.claimSlot o i).base = s.base := by
  simp [State.claimSlot]
@[simp] theorem State.claimSlot_calm (s : State) (o : OpenOperands) (i : Nat) : (s.claimSlot o i).calm = s.calm := by
  simp [State.claimSlot]
@[simp] theorem State.openRule_base (q : QueueEntry) (s : State) : (s.openRule q).base = s.base := by
  unfold State.openRule
  simp only
  repeat' split
  all_goals simp
@[simp] theorem State.openRule_calm (q : QueueEntry) (s : State) : (s.openRule q).calm = s.calm := by
  unfold State.openRule
  simp only
  repeat' split
  all_goals simp
@[simp] theorem State.makeSlotClaim_base (s : State) : s.makeSlotClaim.base = s.base := by
  unfold State.makeSlotClaim
  split <;> simp
@[simp] theorem State.makeSlotClaim_calm (s : State) : s.makeSlotClaim.calm = s.calm := by
  unfold State.makeSlotClaim
  split <;> simp
@[simp] theorem State.completeTest_base (s : State) (i : Nat) : (s.completeTest i).base = s.base := by
  unfold State.completeTest
  simp only
  split <;> simp
@[simp] theorem State.completeTest_calm (s : State) (i : Nat) : (s.completeTest i).calm = s.calm := by
  unfold State.completeTest
  simp only
  split <;> simp
@[simp] theorem State.closeRule_base (q : QueueEntry) (s : State) : (s.closeRule q).base = s.base := by
  unfold State.closeRule
  simp only
  repeat' split
  all_goals simp
@[simp] theorem State.closeRule_calm (q : QueueEntry) (s : State) : (s.closeRule q).calm = s.calm := by
  unfold State.closeRule
  simp only
  repeat' split
  all_goals simp
@[simp] theorem State.releaseRule_base (q : QueueEntry) (s : State) : (s.releaseRule q).base = s.base := by
  unfold State.releaseRule
  repeat' split
  all_goals simp
@[simp] theorem State.releaseRule_calm (q : QueueEntry) (s : State) : (s.releaseRule q).calm = s.calm := by
  unfold State.releaseRule
  repeat' split
  all_goals simp

@[simp] theorem State.stackDamage_base (s : State) (i : Nat) (f : Bool) (op : PartOperation) : (s.stackDamage i f op).base = s.base := by
  unfold State.stackDamage
  simp only
  repeat' split
  all_goals simp
@[simp] theorem State.stackDamage_calm (s : State) (i : Nat) (f : Bool) (op : PartOperation) : (s.stackDamage i f op).calm = s.calm := by
  unfold State.stackDamage
  simp only
  repeat' split
  all_goals simp

@[simp] theorem State.continueSlotClear_base (s : State) (i c : Nat) (f : Bool) : (s.continueSlotClear i c f).base = s.base := by
  unfold State.continueSlotClear
  split <;> simp
@[simp] theorem State.continueSlotClear_calm (s : State) (i c : Nat) (f : Bool) : (s.continueSlotClear i c f).calm = s.calm := by
  unfold State.continueSlotClear
  split <;> simp
@[simp] theorem State.slotClearAnswered_base (s : State) (ok f : Bool) (i c : Nat) : (s.slotClearAnswered ok f i c).base = s.base := by
  unfold State.slotClearAnswered
  split <;> simp
@[simp] theorem State.slotClearAnswered_calm (s : State) (ok f : Bool) (i c : Nat) : (s.slotClearAnswered ok f i c).calm = s.calm := by
  unfold State.slotClearAnswered
  split <;> simp

/-- Another Stack Unit leaves the base alone. -/
theorem State.stackUnit_base (s : State) (u : StackUnit) : ({ s with stackUnit := u } : State).base = s.base := rfl

@[simp] theorem State.takeClearSlot_base (s : State) : s.takeClearSlot.base = s.base := by
  unfold State.takeClearSlot
  split
  · rw [State.continueSlotClear_base, State.stackUnit_base]
  · rfl
@[simp] theorem State.takeClearSlot_calm (s : State) : s.takeClearSlot.calm = s.calm := by
  unfold State.takeClearSlot
  split
  · rw [State.continueSlotClear_calm]
    rfl
  · rfl

@[simp] theorem State.foldEnd_base (s : State) (f : FoldWork) (w : Sweep) (o : SweepOutcome) : (s.foldEnd f w o).base = s.base := by
  simp [State.foldEnd]
@[simp] theorem State.issueFoldRead_base (s : State) (f : FoldWork) (x : Bool) (l n : Nat) : (s.issueFoldRead f x l n).base = s.base :=
  State.issueStack_base _ _ _
@[simp] theorem State.issueSumsRead_base (s : State) (f : FoldWork) (x : Bool) (l n : Nat) : (s.issueSumsRead f x l n).base = s.base :=
  State.issueStack_base _ _ _

@[simp] theorem State.foldFrom_base (w : Sweep) (x : Bool) :
    ∀ (cs : List Nat) (f : FoldWork) (s : State), (State.foldFrom w x cs f s).base = s.base
  | [], f, s => by simp [State.foldFrom]
  | c :: rest, f, s => by
    unfold State.foldFrom
    repeat' split
    · exact State.foldFrom_base w x rest _ s
    · exact State.foldFrom_base w x rest _ s
    · simp

@[simp] theorem State.foldRest_base (s : State) (f : FoldWork) (w : Sweep) (x : Bool) : (s.foldRest f w x).base = s.base :=
  State.foldFrom_base _ _ _ _ _
@[simp] theorem State.foldVerdict_base (s : State) (f : FoldWork) (w : Sweep) (x : Bool) : (s.foldVerdict f w x).base = s.base := by
  unfold State.foldVerdict
  simp only
  split <;> simp
@[simp] theorem State.foldAnsweredOk_base (s : State) (f : FoldWork) (w : Sweep) (x : Bool) (ws : List Word) :
    (s.foldAnsweredOk f w x ws).base = s.base := by
  unfold State.foldAnsweredOk
  simp only
  repeat' split
  all_goals simp
@[simp] theorem State.foldAnsweredFault_base (s : State) (f : FoldWork) (w : Sweep) (x : Bool) :
    (s.foldAnsweredFault f w x).base = s.base := by
  unfold State.foldAnsweredFault
  split <;> simp
@[simp] theorem State.beginFold_base (s : State) (e : Nat) (w : Sweep) : (s.beginFold e w).base = s.base := by
  unfold State.beginFold
  simp only
  split <;> simp
@[simp] theorem State.takeFold_base (s : State) : s.takeFold.base = s.base := by
  unfold State.takeFold
  simp only
  repeat' split
  all_goals simp [State.stackUnit_base]

@[simp] theorem State.continueSeal_base (s : State) (i j : Nat) (x : Bool) : (s.continueSeal i j x).base = s.base := by
  unfold State.continueSeal
  simp only
  split <;> simp
@[simp] theorem State.continueSeal_calm (s : State) (i j : Nat) (x : Bool) : (s.continueSeal i j x).calm = s.calm := by
  unfold State.continueSeal
  simp only
  split <;> simp
@[simp] theorem State.sealAnswered_base (s : State) (ok x : Bool) (i j : Nat) : (s.sealAnswered ok x i j).base = s.base := by
  unfold State.sealAnswered
  simp only
  repeat' split
  all_goals simp
@[simp] theorem State.sealAnswered_calm (s : State) (ok x : Bool) (i j : Nat) : (s.sealAnswered ok x i j).calm = s.calm := by
  unfold State.sealAnswered
  simp only
  repeat' split
  all_goals simp
@[simp] theorem State.takeSeal_base (s : State) : s.takeSeal.base = s.base := by
  unfold State.takeSeal
  simp only
  split
  · simp [State.stackUnit_base]
  · rfl
@[simp] theorem State.takeSeal_calm (s : State) : s.takeSeal.calm = s.calm := by
  unfold State.takeSeal
  simp only
  split
  · rw [State.continueSeal_calm]
    rfl
  · rfl
@[simp] theorem State.stackAnswered_base (s : State) (ok : Bool) (ws : List Word) : (s.stackAnswered ok ws).base = s.base := by
  unfold State.stackAnswered
  repeat' split
  all_goals simp

/-! ### The Pilot Unit -/

@[simp] theorem State.issueCheck_base (s : State) (i n : Nat) (x : Word) : (s.issueCheck i n x).base = s.base := by
  simp [State.issueCheck]
@[simp] theorem State.issueCheck_calm (s : State) (i n : Nat) (x : Word) : (s.issueCheck i n x).calm = s.calm := rfl
@[simp] theorem State.defineRule_base (q : QueueEntry) (s : State) : (s.defineRule q).base = s.base := by
  unfold State.defineRule
  simp only
  split <;> simp
@[simp] theorem State.defineRule_calm (q : QueueEntry) (s : State) : (s.defineRule q).calm = s.calm := by
  unfold State.defineRule
  simp only
  split <;> simp
@[simp] theorem State.startCheck_base (s : State) : s.startCheck.base = s.base := by
  unfold State.startCheck
  split <;> simp
@[simp] theorem State.startCheck_calm (s : State) : s.startCheck.calm = s.calm := by
  unfold State.startCheck
  split <;> simp
@[simp] theorem State.endCheck_base (s : State) (i : Nat) (x : PilotState) (y : Status) : (s.endCheck i x y).base = s.base := by
  simp [State.endCheck]
@[simp] theorem State.endCheck_calm (s : State) (i : Nat) (x : PilotState) (y : Status) : (s.endCheck i x y).calm = s.calm := by
  simp [State.endCheck]
@[simp] theorem State.checkAnswered_base (s : State) (ok : Bool) (ws : List Word) : (s.checkAnswered ok ws).base = s.base := by
  unfold State.checkAnswered
  simp only
  repeat' split
  all_goals simp
@[simp] theorem State.checkAnswered_calm (s : State) (ok : Bool) (ws : List Word) : (s.checkAnswered ok ws).calm = s.calm := by
  unfold State.checkAnswered
  simp only
  repeat' split
  all_goals simp
@[simp] theorem State.removeRule_base (q : QueueEntry) (s : State) : (s.removeRule q).base = s.base := by
  unfold State.removeRule
  simp only
  repeat' split
  all_goals simp
@[simp] theorem State.removeRule_calm (q : QueueEntry) (s : State) : (s.removeRule q).calm = s.calm := by
  unfold State.removeRule
  simp only
  repeat' split
  all_goals simp
@[simp] theorem State.pilotsWritten_base (s : State) (r : Range) : (s.pilotsWritten r).base = s.base := by
  simp [State.base, State.sizes, State.pilotsWritten]

/-! ### The Command Unit -/

@[simp] theorem State.post_base (s : State) (j : Nat) : (s.post j).base = s.base := by
  simp [State.base, State.sizes, State.post]
@[simp] theorem State.post_calm (s : State) (j : Nat) : (s.post j).calm = s.calm := rfl
@[simp] theorem State.takeSlotWords_base (s : State) (a : Nat) (ws : List Word) (j : Nat) : (s.takeSlotWords a ws j).base = s.base := by
  unfold State.takeSlotWords
  simp only
  split <;> simp
@[simp] theorem State.takeSlotWords_calm (s : State) (a : Nat) (ws : List Word) (j : Nat) : (s.takeSlotWords a ws j).calm = s.calm := by
  unfold State.takeSlotWords
  simp only
  split <;> simp
@[simp] theorem State.takeCommandWords_base (s : State) (a : Nat) (ws : List Word) : (s.takeCommandWords a ws).base = s.base :=
  State.foldl_base _ (fun s j => State.takeSlotWords_base s a ws j) _ s
@[simp] theorem State.takeCommandWords_calm (s : State) (a : Nat) (ws : List Word) : (s.takeCommandWords a ws).calm = s.calm :=
  State.foldl_calm _ (fun s j => State.takeSlotWords_calm s a ws j) _ s
@[simp] theorem State.handBusyWrite_base (s : State) : s.handBusyWrite.base = s.base := by
  unfold State.handBusyWrite
  split
  · rfl
  · simp [State.base, State.sizes]
@[simp] theorem State.handBusyWrite_calm (s : State) : s.handBusyWrite.calm = s.calm := by
  unfold State.handBusyWrite
  split <;> rfl
@[simp] theorem State.readStateRule_base (q : QueueEntry) (s : State) : (s.readStateRule q).base = s.base := State.endCommand_base _ _ _
@[simp] theorem State.readStateRule_calm (q : QueueEntry) (s : State) : (s.readStateRule q).calm = s.calm := State.endCommand_calm _ _ _
@[simp] theorem State.geometryRule_calm (q : QueueEntry) (s : State) : (s.geometryRule q).calm = s.calm := by
  unfold State.geometryRule
  simp only
  repeat' split
  · simp
  · simp
  · rw [State.endCommand_calm]
    rfl
@[simp] theorem State.changeWindow_calm (s : State) (w : WindowSetting) : (s.changeWindow w).calm = s.calm := by
  unfold State.changeWindow
  rw [State.endCommand_calm]
  rfl
@[simp] theorem State.windowRule_calm (q : QueueEntry) (s : State) : (s.windowRule q).calm = s.calm := by
  unfold State.windowRule
  repeat' split
  all_goals simp
@[simp] theorem State.makeWindowChange_calm (s : State) : s.makeWindowChange.calm = s.calm := by
  unfold State.makeWindowChange
  split <;> simp
@[simp] theorem State.timersRule_calm (q : QueueEntry) (s : State) : (s.timersRule q).calm = s.calm := by
  unfold State.timersRule
  simp only
  split
  · simp
  · rw [State.endCommand_calm]
    rfl
@[simp] theorem State.arbiterRule_calm (q : QueueEntry) (s : State) : (s.arbiterRule q).calm = s.calm := by
  unfold State.arbiterRule
  simp only
  split
  · simp
  · rw [State.endCommand_calm]
    rfl
@[simp] theorem State.discardStack_base (s : State) (i : Nat) : (s.discardStack i).base = s.base := by
  simp [State.discardStack]
@[simp] theorem State.discardStack_calm (s : State) (i : Nat) : (s.discardStack i).calm = s.calm := by
  simp [State.discardStack]
@[simp] theorem State.engineResetRule_base (q : QueueEntry) (s : State) : (s.engineResetRule q).base = s.base := by
  simp [State.engineResetRule, State.foldl_base State.discardStack State.discardStack_base]
@[simp] theorem State.engineResetRule_calm (q : QueueEntry) (s : State) : (s.engineResetRule q).calm = s.calm := by
  simp [State.engineResetRule, State.foldl_calm State.discardStack State.discardStack_calm]
@[simp] theorem State.resetScans_base (s : State) : s.resetScans.base = s.base := by
  unfold State.resetScans
  split <;> simp
@[simp] theorem State.resetMode_base (s : State) : s.resetMode.base = s.base := by
  unfold State.resetMode
  split <;> simp
@[simp] theorem State.resetDone_base (s : State) : s.resetDone.base = s.base := by
  unfold State.resetDone
  split <;> simp

/-! ### The Report Unit and the path -/

@[simp] theorem State.takeConsumer_base (s : State) (v : Nat) : (s.takeConsumer v).base = s.base := by
  unfold State.takeConsumer
  split
  · exact State.base_reports s _ (by simp)
  · rfl
@[simp] theorem State.takeConsumer_calm (s : State) (v : Nat) : (s.takeConsumer v).calm = s.calm := by
  unfold State.takeConsumer
  split <;> rfl
@[simp] theorem State.takeConsumerWord_base (s : State) (a : Nat) (ws : List Word) : (s.takeConsumerWord a ws).base = s.base := by
  unfold State.takeConsumerWord
  split <;> simp
@[simp] theorem State.takeConsumerWord_calm (s : State) (a : Nat) (ws : List Word) : (s.takeConsumerWord a ws).calm = s.calm := by
  unfold State.takeConsumerWord
  split <;> simp
@[simp] theorem State.reportsRule_base (q : QueueEntry) (s : State) : (s.reportsRule q).base = s.base := by
  unfold State.reportsRule
  split
  · simp
  · rw [State.endCommand_base]
    exact State.base_reports s _ (by simp)
@[simp] theorem State.reportsRule_calm (q : QueueEntry) (s : State) : (s.reportsRule q).calm = s.calm := by
  unfold State.reportsRule
  split
  · simp
  · rw [State.endCommand_calm]
    rfl
@[simp] theorem State.returnSlot_base (s : State) (w : SlotWrite) : (s.returnSlot w).base = s.base := by
  unfold State.returnSlot
  split <;> simp
@[simp] theorem State.returnSlot_calm (s : State) (w : SlotWrite) : (s.returnSlot w).calm = s.calm := by
  unfold State.returnSlot
  split <;> simp
@[simp] theorem State.slotWriteAnswered_base (s : State) (ok : Bool) (w : SlotWrite) : (s.slotWriteAnswered ok w).base = s.base := by
  unfold State.slotWriteAnswered
  simp only
  repeat' split
  all_goals simp
@[simp] theorem State.slotWriteAnswered_calm (s : State) (ok : Bool) (w : SlotWrite) : (s.slotWriteAnswered ok w).calm = s.calm := by
  unfold State.slotWriteAnswered
  simp only
  repeat' split
  all_goals simp

@[simp] theorem State.recordAnswered_base (s : State) (ok : Bool) (x : Record) (n : Nat) : (s.recordAnswered ok x n).base = s.base := by
  unfold State.recordAnswered
  simp only
  repeat' split
  · rfl
  · exact State.base_reports s _ rfl
  · rw [State.partFault_base]
    exact State.base_reports s _ rfl
@[simp] theorem State.recordAnswered_calm (s : State) (ok : Bool) (x : Record) (n : Nat) : (s.recordAnswered ok x n).calm = s.calm := by
  unfold State.recordAnswered
  simp only
  repeat' split
  all_goals rfl
@[simp] theorem State.producerAnswered_base (s : State) (ok x : Bool) : (s.producerAnswered ok x).base = s.base := by
  unfold State.producerAnswered
  simp only
  split
  · rw [State.partFault_base]
    rfl
  · rfl
@[simp] theorem State.producerAnswered_calm (s : State) (ok x : Bool) : (s.producerAnswered ok x).calm = s.calm := by
  unfold State.producerAnswered
  simp only
  split <;> rfl
@[simp] theorem State.mirrorAnswered_base (s : State) (ok : Bool) (i : Nat) : (s.mirrorAnswered ok i).base = s.base := by
  unfold State.mirrorAnswered
  split <;> simp
@[simp] theorem State.mirrorAnswered_calm (s : State) (ok : Bool) (i : Nat) : (s.mirrorAnswered ok i).calm = s.calm := by
  unfold State.mirrorAnswered
  split <;> simp
@[simp] theorem State.reportAnswered_base (s : State) (ok : Bool) : (s.reportAnswered ok).base = s.base := by
  unfold State.reportAnswered
  simp only
  repeat' split
  · rfl
  · rfl
  all_goals simp
  all_goals rfl
@[simp] theorem State.reportAnswered_calm (s : State) (ok : Bool) : (s.reportAnswered ok).calm = s.calm := by
  unfold State.reportAnswered
  simp only
  repeat' split
  · rfl
  · rfl
  all_goals simp
  all_goals rfl

end Sys2Proof.Machine
end

