-- ==== Sys2Proof/Laws/AtOnce.lean ====
section
/-! SUPPORT. The steps due at once: what they leave alone, and that they come to an end. -/

namespace Sys2Proof.Machine

/-- What the boundary work and the steps due at once leave alone: everything outside the part, and the size of every table. -/
def State.outside (s : State) := (s.memory, s.pending, s.cbase, s.pwb, s.held, s.answer, s.sizes)

/-- What leaves the base alone leaves the outside alone. -/
theorem State.outside_of_base {s t : State} (h : s.base = t.base) : s.outside = t.outside := by
  simp only [State.base, Prod.mk.injEq] at h
  simp [State.outside, h]

/-! ### The outside -/

@[simp] theorem State.settle_outside (s : State) : s.settle.outside = s.outside := State.outside_of_base (State.settle_base s)

@[simp] theorem State.endCommand_outside (s : State) (x : Status) (r : Option (List Word)) : (s.endCommand x r).outside = s.outside :=
  State.outside_of_base (State.endCommand_base s x r)

/-- Other windows leave the outside alone. -/
theorem State.changeWindow_outside (s : State) (w : WindowSetting) : (s.changeWindow w).outside = s.outside := by
  unfold State.changeWindow
  rw [State.endCommand_outside]
  rfl

theorem CommandKind.rule_outside (k : CommandKind) (q : QueueEntry) (s : State) : (k.rule q s).outside = s.outside := by
  cases k
  case setGeometry =>
    simp only [CommandKind.rule, State.geometryRule]
    repeat' split
    all_goals rw [State.endCommand_outside]
    rfl
  case setWindow =>
    simp only [CommandKind.rule, State.windowRule]
    repeat' split
    · exact State.endCommand_outside _ _ _
    · exact State.endCommand_outside _ _ _
    · exact State.changeWindow_outside _ _
    · rfl
  case setTimers =>
    simp only [CommandKind.rule, State.timersRule]
    split
    all_goals rw [State.endCommand_outside]
    rfl
  case setArbiter =>
    simp only [CommandKind.rule, State.arbiterRule]
    split
    all_goals rw [State.endCommand_outside]
    rfl
  all_goals exact State.outside_of_base (by simp [CommandKind.rule])

@[simp] theorem State.beginHead_outside (s : State) : s.beginHead.outside = s.outside := by
  unfold State.beginHead State.beginCommand
  repeat' split
  all_goals first
    | rfl
    | exact State.endCommand_outside _ _ _
    | exact CommandKind.rule_outside _ _ _

@[simp] theorem State.atOnce_outside (s : State) : s.atOnce.outside = s.outside := by
  unfold State.atOnce
  repeat' split
  · exact State.beginHead_outside s
  · exact State.outside_of_base (State.makeSlotClaim_base s)
  · unfold State.makeWindowChange
    split
    · exact State.changeWindow_outside _ _
    · rfl

/-- The steps due at once leave the outside alone. -/
@[simp] theorem State.caughtUp_outside (s : State) : s.caughtUp.outside = s.outside :=
  State.caughtUp_keeps (P := fun x => x.outside = s.outside) (fun x h => (State.settle_outside x).trans h)
    (fun x h => (State.atOnce_outside x).trans h) rfl

@[simp] theorem State.caughtUp_memory (s : State) : s.caughtUp.memory = s.memory := congrArg (·.1) (State.caughtUp_outside s)
@[simp] theorem State.caughtUp_pending (s : State) : s.caughtUp.pending = s.pending := congrArg (·.2.1) (State.caughtUp_outside s)
@[simp] theorem State.caughtUp_cbase (s : State) : s.caughtUp.cbase = s.cbase := congrArg (·.2.2.1) (State.caughtUp_outside s)
@[simp] theorem State.caughtUp_pwb (s : State) : s.caughtUp.pwb = s.pwb := congrArg (·.2.2.2.1) (State.caughtUp_outside s)
@[simp] theorem State.caughtUp_held (s : State) : s.caughtUp.held = s.held := congrArg (·.2.2.2.2.1) (State.caughtUp_outside s)
@[simp] theorem State.caughtUp_answer (s : State) : s.caughtUp.answer = s.answer := congrArg (·.2.2.2.2.2.1) (State.caughtUp_outside s)
@[simp] theorem State.caughtUp_sizes (s : State) : s.caughtUp.sizes = s.sizes := congrArg (·.2.2.2.2.2.2) (State.caughtUp_outside s)

/-! ### The Command Unit -/

/-- A run of operations that each leave the Command Unit alone. -/
theorem State.foldl_commands {α : Type} (f : State → α → State) (h : ∀ s a, (f s a).commands = s.commands) (l : List α) :
    ∀ s : State, (l.foldl f s).commands = s.commands := by
  induction l with
  | nil => exact fun _ => rfl
  | cons a as ih => exact fun s => (ih (f s a)).trans (h s a)

@[simp] theorem State.leaveCorrelation_commands (s : State) (e : Nat) (o : SweepOutcome) :
    (s.leaveCorrelation e o).commands = s.commands := by
  unfold State.leaveCorrelation
  split
  · rfl
  · rename_i w _
    simp only [State.stopIdleTimer]
    cases w.pilot <;> (split <;> rfl)
@[simp] theorem State.modeAbort_commands (s : State) : s.modeAbort.commands = s.commands :=
  State.foldl_commands _ (fun s e => State.leaveCorrelation_commands s e _) _ s
@[simp] theorem State.discardSlot_commands (s : State) (i : Nat) (r : DiscardReason) : (s.discardSlot i r).commands = s.commands :=
  State.foldl_commands (fun s p => s.discardRead r p) (fun _ _ => rfl) _ s
@[simp] theorem State.discardStack_commands (s : State) (i : Nat) : (s.discardStack i).commands = s.commands :=
  (State.discardSlot_commands _ _ _).trans rfl
@[simp] theorem State.completeTest_commands (s : State) (i : Nat) : (s.completeTest i).commands = s.commands := by
  unfold State.completeTest
  simp only
  split <;> rfl
@[simp] theorem State.enterIdle_commands (s : State) (c : ModeCause) : (s.enterIdle c).commands = s.commands := by
  have h : s.clearAssembler.commands = s.commands := by
    unfold State.clearAssembler State.abandonProcess
    split <;> rfl
  exact h
@[simp] theorem State.enterSweep_commands (s : State) (o : NoticeOperands) (i e : Nat) : (s.enterSweep o i e).commands = s.commands := by
  unfold State.enterSweep State.claimPilot
  simp only
  cases o.pilot <;> (split <;> rfl)

/-- The command at the head of the queue has ended, or goes on in later events. -/
def State.headMoved (s t : State) : Prop :=
  t.commands.queue = s.commands.queue.tail ∧ t.commands.progress = none ∨
    t.commands.queue = s.commands.queue ∧ t.commands.progress.isSome = true

/-- A command ends: it leaves the queue, and none is in progress. -/
theorem State.endCommand_headMoved {s t : State} {x : Status} {r : Option (List Word)} (h : t.commands.queue = s.commands.queue)
    (hq : s.commands.queue ≠ []) : s.headMoved (t.endCommand x r) := by
  refine Or.inl ?_
  unfold State.endCommand
  split
  · rename_i he
    exact absurd (h ▸ he) hq
  · rename_i q rest he
    rw [← h, he]
    split <;> exact ⟨rfl, rfl⟩

/-- A command goes on in later events. -/
theorem State.setProgress_headMoved {s t : State} (p : CommandProgress) (h : t.commands.queue = s.commands.queue) :
    s.headMoved (t.setProgress p) := Or.inr ⟨h, rfl⟩

/-- The rule of a command ends it or has it go on in later events. -/
theorem CommandKind.rule_headMoved (k : CommandKind) (q : QueueEntry) (s : State) (hq : s.commands.queue ≠ []) :
    s.headMoved (k.rule q s) := by
  cases k
  case setMode =>
    simp only [CommandKind.rule, State.setModeRule, State.setMode, State.leaveAcquire, State.applyAbort]
    repeat' split
    all_goals exact State.endCommand_headMoved (by simp [State.changeMode]) hq
  case engineReset =>
    refine State.setProgress_headMoved _ ?_
    rw [State.foldl_commands State.discardStack State.discardStack_commands]
    rfl
  all_goals
    simp only [CommandKind.rule, State.geometryRule, State.windowRule, State.changeWindow, State.timersRule, State.readStateRule,
      State.noticeRule, State.cancelRule, State.readSweepRule, State.defineRule, State.removeRule, State.muteRule, State.unmuteRule,
      State.readChannelRule, State.openRule, State.claimSlot, State.closeRule, State.releaseRule, State.arbiterRule,
      State.reportsRule]
    repeat' split
    all_goals first
      | exact State.endCommand_headMoved rfl hq
      | exact State.setProgress_headMoved _ rfl
      | exact State.endCommand_headMoved (by simp) hq

/-- What the Command Unit can still do at once: a command takes at most a beginning and a claim or window change. -/
def State.toGo (s : State) : Nat := 2 * s.commands.queue.length - (if s.commands.progress.isSome then 1 else 0)

/-- The step that is due at once is one of those. -/
theorem State.atOnce_toGo {s : State} (h : s.overdue = true) : s.atOnce.toGo < s.toGo := by
  obtain ⟨hq, hd⟩ : s.commands.queue ≠ [] ∧ (s.commands.progress.isNone || s.slotClaimDue || s.windowChangeDue) = true := by
    simpa [State.overdue] using h
  obtain ⟨q, rest, hc⟩ := List.exists_cons_of_ne_nil hq
  by_cases hp : s.commands.progress = none
  · have hm : s.headMoved s.beginHead := by
      unfold State.beginHead State.beginCommand
      simp only [hc]
      split
      · exact State.endCommand_headMoved rfl hq
      · split
        · exact CommandKind.rule_headMoved _ _ _ hq
        · exact State.endCommand_headMoved rfl hq
    rcases hm with ⟨h1, h2⟩ | ⟨h1, h2⟩
    · simp [State.atOnce, State.toGo, hp, h1, h2, hc]
    · simp [State.atOnce, State.toGo, hp, h1, h2, hc]
  · obtain ⟨p, hp⟩ := Option.ne_none_iff_exists'.mp hp
    have hm : s.atOnce.commands.queue = rest ∧ s.atOnce.commands.progress = none := by
      have h0 : ∀ t : State, t.commands.queue = s.commands.queue → ∀ x, (t.endCommand x).commands.queue = rest ∧
          (t.endCommand x).commands.progress = none := by
        intro t ht x
        unfold State.endCommand
        rw [ht, hc]
        simp only
        split <;> exact ⟨rfl, rfl⟩
      unfold State.atOnce
      rw [hp]
      simp only [Option.isNone_some, Bool.false_eq_true, if_false]
      split
      · rename_i hs
        unfold State.slotClaimDue at hs
        rw [hp] at hs
        cases p <;> simp at hs
        unfold State.makeSlotClaim
        rw [hp, hc]
        exact h0 ((s.setSlot _ _).appendStackItem _) rfl .ok
      · rename_i hs
        have hw : s.windowChangeDue = true := by
          simp only [hp, hs, Option.isNone_some, Bool.false_or, Bool.or_self] at hd
          simpa using hd
        unfold State.windowChangeDue at hw
        rw [hp] at hw
        cases p <;> simp at hw
        unfold State.makeWindowChange
        rw [hp]
        exact h0 { s with windows := s.windows.apply _ } rfl .ok
    simp [State.toGo, hm.1, hm.2, hp, hc]
    omega

/-- Enough rounds make everything that is due at once. -/
theorem State.catchUp_done : ∀ (n : Nat) (s : State), s.toGo ≤ n → (State.catchUp n s).overdue = false
  | 0, s, h => by
    cases ho : s.overdue with
    | false => exact ho
    | true => exact absurd (State.atOnce_toGo ho) (by omega)
  | n + 1, s, h => by
    unfold State.catchUp
    split
    · rename_i ho
      have h1 := State.atOnce_toGo ho
      exact State.catchUp_done n _ (by
        have h2 : s.atOnce.settle.toGo = s.atOnce.toGo := rfl
        omega)
    · rename_i ho
      simpa using ho

/-- In the state that is caught up nothing is due at once. -/
theorem State.caughtUp_done (s : State) : s.caughtUp.overdue = false :=
  State.catchUp_done _ _ (by simp [State.toGo])

/-! ### The boundary work is done once -/

/-- The transfers that are outstanding. -/
def Port.places (p : Port) :=
  (p.forward, p.engine, p.stackUnit, p.pilotUnit, p.drqFetch, p.reportUnit, p.fetchFor)

theorem Port.issue_places (p : Port) (side : Side) : (p.issue side).places = p.places := by
  unfold Port.issue
  repeat' split
  all_goals rfl

theorem Port.arbitrate_places (p : Port) : p.arbitrate.places = p.places := by
  unfold Port.arbitrate
  repeat' split
  all_goals first
    | rfl
    | (rw [Port.issue_places]; try rfl)

theorem Client.mem_after (r c : Client) : c ∈ Client.after r := by
  cases r <;> cases c <;> decide

/-- A side that waits issues its attempt. -/
theorem Port.issue_attempt {p : Port} {side : Side} (h : p.waiting side = true) : (p.issue side).attempt.isSome = true := by
  cases side with
  | forwarding => rfl
  | part =>
    unfold Port.issue
    simp only
    unfold Port.waiting at h
    cases hc : p.current with
    | some c => rfl
    | none =>
      simp only [hc] at h
      obtain ⟨c, _, ho⟩ := List.any_eq_true.mp h
      simp only
      split
      · rfl
      · rename_i hf
        exact absurd ho (by simpa using List.find?_eq_none.mp hf c (Client.mem_after _ _))

/-- The arbiter has decided when an attempt is at the DRAM, when it may not decide, or when no side waits. -/
theorem Port.arbitrate_twice (p : Port) : p.arbitrate.arbitrate = p.arbitrate := by
  have quiet : ∀ q : Port, q.attempt.isSome = true → q.arbitrate = q := by
    intro q h
    simp [Port.arbitrate, h]
  by_cases hb : (p.attempt.isSome || p.abandoned.isSome) = true
  · have h1 : p.arbitrate = p := by
      unfold Port.arbitrate
      rw [if_pos hb]
    rw [h1, h1]
  · have other : ∀ n, p.waiting p.holder.other = true →
        ({ p with holder := p.holder.other, sliceCount := n }.issue p.holder.other).attempt.isSome = true := fun n h =>
      Port.issue_attempt (p := { p with holder := p.holder.other, sliceCount := n }) (by cases hh : p.holder <;> (rw [hh] at h; exact h))
    cases h1 : p.waiting p.holder <;> cases h2 : p.waiting p.holder.other
    · have h3 : p.arbitrate = p := by
        unfold Port.arbitrate
        rw [if_neg hb]
        simp only [h1, h2]
      rw [h3, h3]
    all_goals
      refine quiet _ ?_
      unfold Port.arbitrate
      rw [if_neg hb]
      simp only [h1, h2]
    · exact other _ h2
    · exact Port.issue_attempt h1
    · split
      · exact Port.issue_attempt (p := { p with sliceCount := p.sliceCount + 1 }) h1
      · exact other _ h2

/-- A client that has presented a transfer has one outstanding. -/
theorem Port.present_out (p : Port) (c : Client) (t : Transfer) : ((p.present c t).client c).out.isSome = true := by
  unfold Port.present
  split
  · unfold Port.beginsToWait
    split <;> (cases c <;> rfl)
  · cases c <;> rfl

/-- The Report Unit's client has a write outstanding, or nothing to write. -/
theorem State.presentReport_done (s : State) :
    s.presentReport.1.reportUnit.out.isSome = true ∨ s.presentReport = (s.port, s.reports) ∧ s.reports.nextWrite = none := by
  unfold State.presentReport
  split
  · exact Or.inl ‹_›
  · split
    · exact Or.inr ⟨rfl, ‹_›⟩
    · exact Or.inl (Port.present_out _ .reportUnit _)

/-- The DRQ fetch has a read outstanding, or nothing to read. -/
theorem State.presentFetch_done (s : State) (p : Port) :
    (s.presentFetch p).drqFetch.out.isSome = true ∨ ∀ q : Port, s.presentFetch q = q := by
  unfold State.presentFetch
  split
  · exact Or.inl ‹_›
  · split
    · refine Or.inr fun q => ?_
      split <;> rfl
    · split
      · refine Or.inr fun q => ?_
        split <;> rfl
      · exact Or.inl (Port.present_out _ .drqFetch _)

theorem State.presentFetch_reportUnit (s : State) (p : Port) : (s.presentFetch p).reportUnit = p.reportUnit := by
  unfold State.presentFetch Port.present Port.beginsToWait
  repeat' split
  all_goals rfl

theorem State.presentDelivery_clients (s : State) (p : Port) :
    (s.presentDelivery p).reportUnit = p.reportUnit ∧ (s.presentDelivery p).drqFetch = p.drqFetch := by
  unfold State.presentDelivery Port.presentForward Port.beginsToWait
  repeat' split
  all_goals exact ⟨rfl, rfl⟩

/-- The Posted Write Buffer has its first write outstanding, or holds none, or a read is outstanding. -/
theorem State.presentDelivery_done (s : State) (p : Port) : (s.presentDelivery p).forward.isSome = true ∨ s.pwb = [] := by
  unfold State.presentDelivery Port.presentForward Port.beginsToWait
  split
  · left
    simp only
    split <;> rfl
  · rename_i h
    cases hf : p.forward with
    | some x => exact Or.inl rfl
    | none =>
      right
      cases hw : s.pwb with
      | nil => rfl
      | cons w rest => exact absurd hw (h w rest hf)

/-- The boundary work is done once. -/
@[simp] theorem State.settle_settle (s : State) : s.settle.settle = s.settle := by
  have hp : s.settle.port.places = (s.presentDelivery (s.presentFetch s.presentReport.1)).places := Port.arbitrate_places _
  have hr : s.settle.port.reportUnit = s.presentReport.1.reportUnit := by
    have h : s.settle.port.reportUnit = _ := congrArg (·.2.2.2.2.2.1) hp
    rw [h]
    exact (State.presentDelivery_clients s _).1.trans (State.presentFetch_reportUnit s _)
  have hq : s.settle.port.drqFetch = (s.presentFetch s.presentReport.1).drqFetch := by
    have h : s.settle.port.drqFetch = _ := congrArg (·.2.2.2.2.1) hp
    rw [h]
    exact (State.presentDelivery_clients s _).2
  have h1 : s.settle.presentReport = (s.settle.port, s.settle.reports) := by
    unfold State.presentReport
    rcases State.presentReport_done s with h | ⟨h, hn⟩
    · rw [hr, if_pos h]
    · have : s.settle.reports = s.reports := congrArg (·.2) h
      rw [this, hn]
      split <;> rfl
  have h2 : s.settle.presentFetch s.settle.port = s.settle.port := by
    rcases State.presentFetch_done s s.presentReport.1 with h | h
    · unfold State.presentFetch
      rw [hq, if_pos h]
    · exact h _
  have h3 : s.settle.presentDelivery s.settle.port = s.settle.port := by
    have hf : s.settle.port.forward = (s.presentDelivery (s.presentFetch s.presentReport.1)).forward := congrArg (·.1) hp
    rcases State.presentDelivery_done s (s.presentFetch s.presentReport.1) with h | h
    · unfold State.presentDelivery
      rw [← hf] at h
      obtain ⟨x, hx⟩ := Option.isSome_iff_exists.mp h
      rw [hx]
    · unfold State.presentDelivery
      rw [State.settle_pwb, h]
      split <;> simp_all
  have h4 : s.settle.port.arbitrate = s.settle.port := Port.arbitrate_twice _
  have settles : ∀ x : State, x.presentReport = (x.port, x.reports) → x.presentFetch x.port = x.port →
      x.presentDelivery x.port = x.port → x.port.arbitrate = x.port → x.settle = x := by
    intro x g1 g2 g3 g4
    unfold State.settle
    simp only [g1, g2, g3, g4]
  exact settles _ h1 h2 h3 h4

/-- The step that is due at once brings a state no further from the one that is caught up. -/
theorem State.catchUp_fuel : ∀ (n k : Nat) (s : State), s.toGo ≤ n → s.toGo ≤ k → State.catchUp n s = State.catchUp k s
  | 0, 0, s, _, _ => rfl
  | 0, k + 1, s, h, _ => by
    have ho : s.overdue = false := State.catchUp_done 0 s h
    simp [State.catchUp, ho]
  | n + 1, 0, s, _, h => by
    have ho : s.overdue = false := State.catchUp_done 0 s h
    simp [State.catchUp, ho]
  | n + 1, k + 1, s, hn, hk => by
    unfold State.catchUp
    split
    · rename_i ho
      have h1 : s.atOnce.settle.toGo < s.toGo := State.atOnce_toGo ho
      exact State.catchUp_fuel n k _ (by omega) (by omega)
    · rfl

/-- A step that is due at once comes first. -/
theorem State.caughtUp_atOnce {s : State} (h : s.settle.overdue = true) : s.caughtUp = s.settle.atOnce.settle.caughtUp := by
  have h1 : s.settle.atOnce.settle.toGo < s.settle.toGo := State.atOnce_toGo h
  have h2 : s.settle.toGo ≤ 2 * s.commands.queue.length := by simp [State.toGo]
  have hne : s.commands.queue ≠ [] := by
    intro hq
    simp [State.overdue, hq] at h
  obtain ⟨n, hn⟩ : ∃ n, 2 * s.commands.queue.length = n + 1 :=
    ⟨2 * s.commands.queue.length - 1, by
      have := List.length_pos_iff.mpr hne
      omega⟩
  unfold State.caughtUp
  rw [hn]
  conv => lhs; unfold State.catchUp
  rw [if_pos h, State.settle_settle]
  exact State.catchUp_fuel _ _ _ (by omega) (by simp [State.toGo])

end Sys2Proof.Machine
end

