-- ==== Sys2Proof/Laws/Memory.lean ====
section
/-! SUPPORT. The DRAM: every operation keeps the canonical form, and what a write leaves to be read. -/

namespace Sys2Proof.Machine

/-- The empty memory is canonical. -/
theorem Memory.wf_nil : Memory.wf [] := ⟨List.Pairwise.nil, fun _ h => absurd h (by simp)⟩

/-- A bound below every listed address stays one after a write above it. -/
theorem Memory.write_bound {b : Nat} : ∀ (m : Memory) (a : Nat) (w : Word), (∀ p ∈ m, b < p.1) → b < a →
    ∀ p ∈ Memory.write m a w, b < p.1
  | [], a, w, _, h, p, hp => by
    unfold Memory.write at hp
    split at hp <;> simp_all
  | (c, v) :: rest, a, w, hm, h, p, hp => by
    have hc : b < c := hm (c, v) (by simp)
    have hr : ∀ q ∈ rest, b < q.1 := fun q hq => hm q (by simp [hq])
    unfold Memory.write at hp
    split at hp
    · split at hp
      · exact hm p hp
      · rcases List.mem_cons.mp hp with rfl | hp
        · exact h
        · exact hm p hp
    · split at hp
      · split at hp
        · exact hr p hp
        · rcases List.mem_cons.mp hp with rfl | hp
          · exact h
          · exact hr p hp
      · rcases List.mem_cons.mp hp with rfl | hp
        · exact hc
        · exact Memory.write_bound rest a w hr h p hp

/-- A write keeps the canonical form. -/
theorem Memory.write_wf : ∀ (m : Memory) (a : Nat) (w : Word), m.wf → (Memory.write m a w).wf
  | [], a, w, _ => by
    unfold Memory.write
    split
    · exact Memory.wf_nil
    · rename_i h
      exact ⟨by simp, by simpa using h⟩
  | (c, v) :: rest, a, w, hm => by
    obtain ⟨hp, hv⟩ := hm
    have hlt : ∀ q ∈ rest, c < q.1 := fun q hq => (List.pairwise_cons.mp hp).1 q hq
    have hrest : Memory.wf rest := ⟨(List.pairwise_cons.mp hp).2, fun q hq => hv q (by simp [hq])⟩
    have hcv : v ≠ Config.unwrittenWord := hv (c, v) (by simp)
    unfold Memory.write
    split
    · rename_i h
      split
      · exact ⟨hp, hv⟩
      · rename_i hw
        refine ⟨List.pairwise_cons.mpr ⟨fun q hq => ?_, hp⟩, fun q hq => ?_⟩
        · rcases List.mem_cons.mp hq with rfl | hq
          · exact h
          · exact Nat.lt_trans h (hlt q hq)
        · rcases List.mem_cons.mp hq with rfl | hq
          · exact hw
          · exact hv q hq
    · split
      · rename_i _ h
        subst h
        split
        · exact hrest
        · rename_i hw
          refine ⟨List.pairwise_cons.mpr ⟨hlt, hrest.1⟩, fun q hq => ?_⟩
          rcases List.mem_cons.mp hq with rfl | hq
          · exact hw
          · exact hrest.2 q hq
      · rename_i h1 h2
        have hca : c < a := by omega
        have ih := Memory.write_wf rest a w hrest
        refine ⟨List.pairwise_cons.mpr ⟨Memory.write_bound rest a w hlt hca, ih.1⟩, fun q hq => ?_⟩
        rcases List.mem_cons.mp hq with rfl | hq
        · exact hcv
        · exact ih.2 q hq

/-- Consecutive writes keep the canonical form. -/
theorem Memory.writeWords_wf : ∀ (ws : List Word) (m : Memory) (a : Nat), m.wf → (m.writeWords a ws).wf
  | [], _, _, h => h
  | w :: ws, m, a, h => Memory.writeWords_wf ws _ _ (Memory.write_wf m a w h)

/-- A failed write keeps the canonical form, whichever of its words landed. -/
theorem Memory.writeLanded_wf : ∀ (ws : List Word) (ls : List Bool) (m : Memory) (a : Nat), m.wf → (m.writeLanded a ws ls).wf
  | [], _, _, _, h => by unfold Memory.writeLanded; exact h
  | _ :: _, [], _, _, h => by unfold Memory.writeLanded; exact h
  | w :: ws, l :: ls, m, a, h => by
    unfold Memory.writeLanded
    apply Memory.writeLanded_wf ws ls
    split
    · exact Memory.write_wf m a w h
    · exact h

/-- An answered attempt keeps the canonical form. -/
theorem Memory.attempt_wf (m : Memory) (t : Transfer) (a : DramAnswer) (h : m.wf) : (m.attempt t a).wf := by
  unfold Memory.attempt
  split
  · exact h
  · exact Memory.writeWords_wf _ _ _ h
  · exact Memory.writeLanded_wf _ _ _ _ h

/-- Below every listed address a memory reads as unwritten. -/
theorem Memory.read_below : ∀ (m : Memory) (a : Nat), (∀ p ∈ m, a < p.1) → m.read a = Config.unwrittenWord
  | [], _, _ => rfl
  | (b, v) :: rest, a, h => by
    have hb : a < b := h (b, v) (by simp)
    unfold Memory.read
    rw [if_neg (by omega)]
    exact Memory.read_below rest a (fun p hp => h p (by simp [hp]))

/-- What a canonical memory reads after one write. -/
theorem Memory.read_write : ∀ (m : Memory) (a b : Nat) (w : Word), m.wf →
    (Memory.write m a w).read b = if b = a then w else m.read b
  | [], a, b, w, _ => by
    unfold Memory.write
    by_cases hw : w = Config.unwrittenWord
    · by_cases h : b = a <;> simp [Memory.read, hw, h]
    · by_cases h : b = a <;> simp [Memory.read, hw, h]
  | (c, v) :: rest, a, b, w, hm => by
    have hlt : ∀ q ∈ rest, c < q.1 := fun q hq => (List.pairwise_cons.mp hm.1).1 q hq
    have hrest : Memory.wf rest := ⟨(List.pairwise_cons.mp hm.1).2, fun q hq => hm.2 q (by simp [hq])⟩
    unfold Memory.write
    by_cases h1 : a < c
    · rw [if_pos h1]
      by_cases hw : w = Config.unwrittenWord
      · rw [if_pos hw]
        by_cases h : b = a
        · rw [if_pos h, hw]
          apply Memory.read_below
          intro p hp
          rcases List.mem_cons.mp hp with rfl | hp
          · show b < c
            omega
          · have := hlt p hp
            omega
        · rw [if_neg h]
      · rw [if_neg hw]
        by_cases h : b = a <;> simp [Memory.read, h]
    · rw [if_neg h1]
      by_cases h2 : a = c
      · rw [if_pos h2]
        subst h2
        by_cases hw : w = Config.unwrittenWord
        · rw [if_pos hw]
          by_cases h : b = a
          · rw [if_pos h, hw, h]
            exact Memory.read_below rest a hlt
          · rw [if_neg h]
            simp [Memory.read, h]
        · rw [if_neg hw]
          by_cases h : b = a <;> simp [Memory.read, h]
      · rw [if_neg h2]
        have ih := Memory.read_write rest a b w hrest
        by_cases h : b = c
        · have : b ≠ a := by omega
          simp [Memory.read, h, show c ≠ a by omega]
        · simp only [Memory.read, if_neg h]
          exact ih

end Sys2Proof.Machine
end

