-- ==== Sys2Proof/Laws/PerInstr.lean ====
section
/-! SUPPORT. Families of statements made for every command, one lemma a constructor. NoBits: the opcode table gives no row bits, so no
word spells the command. -/

namespace Sys2Proof.Laws

/-- No word of any width spells the command. -/
def NoBits.Statement (i : Instr) : Prop := ∀ nbits w : Nat, decodeTableWord nbits w ≠ some i

/-- The decoder answers no command. -/
theorem NoBits.none_spelled (i : Instr) : NoBits.Statement i := fun _ _ => nofun

theorem NoBits.lineReset (cbase : BitVec 4) : NoBits.Statement (.lineReset cbase) := NoBits.none_spelled _
theorem NoBits.tick : NoBits.Statement .tick := NoBits.none_spelled _
theorem NoBits.stallTimerExpiry : NoBits.Statement .stallTimerExpiry := NoBits.none_spelled _
theorem NoBits.discardCountdownExpiry (entry : Nat) : NoBits.Statement (.discardCountdownExpiry entry) := NoBits.none_spelled _
theorem NoBits.upstreamWrite (requester : Requester) (address : Address) (data : List Word) :
    NoBits.Statement (.upstreamWrite requester address data) := NoBits.none_spelled _
theorem NoBits.rawWindowWrite (requester : Requester) (address : Address) (data : List Word) :
    NoBits.Statement (.rawWindowWrite requester address data) := NoBits.none_spelled _
theorem NoBits.consumerIndexWrite (requester : Requester) (address : Address) (data : List Word) :
    NoBits.Statement (.consumerIndexWrite requester address data) := NoBits.none_spelled _
theorem NoBits.upstreamRead (requester : Requester) (address : Address) (length : Nat) :
    NoBits.Statement (.upstreamRead requester address length) := NoBits.none_spelled _
theorem NoBits.passThroughReadIssue : NoBits.Statement .passThroughReadIssue := NoBits.none_spelled _
theorem NoBits.passThroughReadAnswer (answer : DramAnswer) : NoBits.Statement (.passThroughReadAnswer answer) := NoBits.none_spelled _
theorem NoBits.pwbDeliveryAnswer (answer : DramAnswer) : NoBits.Statement (.pwbDeliveryAnswer answer) := NoBits.none_spelled _
theorem NoBits.attemptBusy : NoBits.Statement .attemptBusy := NoBits.none_spelled _
theorem NoBits.clearSweep : NoBits.Statement .clearSweep := NoBits.none_spelled _
theorem NoBits.processScan : NoBits.Statement .processScan := NoBits.none_spelled _
theorem NoBits.engineTransferAnswer (answer : DramAnswer) : NoBits.Statement (.engineTransferAnswer answer) := NoBits.none_spelled _
theorem NoBits.clearSlot : NoBits.Statement .clearSlot := NoBits.none_spelled _
theorem NoBits.fold : NoBits.Statement .fold := NoBits.none_spelled _
theorem NoBits.seal : NoBits.Statement .seal := NoBits.none_spelled _
theorem NoBits.stackUnitTransferAnswer (answer : DramAnswer) : NoBits.Statement (.stackUnitTransferAnswer answer) := NoBits.none_spelled _
theorem NoBits.drqFetchAnswer (answer : DramAnswer) : NoBits.Statement (.drqFetchAnswer answer) := NoBits.none_spelled _
theorem NoBits.pilotCheckStart : NoBits.Statement .pilotCheckStart := NoBits.none_spelled _
theorem NoBits.pilotCheckReadAnswer (answer : DramAnswer) : NoBits.Statement (.pilotCheckReadAnswer answer) := NoBits.none_spelled _
theorem NoBits.reportWriteAnswer (answer : DramAnswer) : NoBits.Statement (.reportWriteAnswer answer) := NoBits.none_spelled _
theorem NoBits.producerWriteAnswer (answer : DramAnswer) : NoBits.Statement (.producerWriteAnswer answer) := NoBits.none_spelled _
theorem NoBits.mirrorWriteAnswer (answer : DramAnswer) : NoBits.Statement (.mirrorWriteAnswer answer) := NoBits.none_spelled _
theorem NoBits.busyWriteHanded : NoBits.Statement .busyWriteHanded := NoBits.none_spelled _
theorem NoBits.commandSlotWriteAnswer (answer : DramAnswer) : NoBits.Statement (.commandSlotWriteAnswer answer) := NoBits.none_spelled _
theorem NoBits.badKindCommand : NoBits.Statement .badKindCommand := NoBits.none_spelled _
theorem NoBits.setGeometry : NoBits.Statement .setGeometry := NoBits.none_spelled _
theorem NoBits.setWindow : NoBits.Statement .setWindow := NoBits.none_spelled _
theorem NoBits.windowChange : NoBits.Statement .windowChange := NoBits.none_spelled _
theorem NoBits.setTimers : NoBits.Statement .setTimers := NoBits.none_spelled _
theorem NoBits.readState : NoBits.Statement .readState := NoBits.none_spelled _
theorem NoBits.engineReset : NoBits.Statement .engineReset := NoBits.none_spelled _
theorem NoBits.engineResetScanAssembler : NoBits.Statement .engineResetScanAssembler := NoBits.none_spelled _
theorem NoBits.engineResetDone : NoBits.Statement .engineResetDone := NoBits.none_spelled _
theorem NoBits.noticeSweep : NoBits.Statement .noticeSweep := NoBits.none_spelled _
theorem NoBits.cancelSweep : NoBits.Statement .cancelSweep := NoBits.none_spelled _
theorem NoBits.readSweep : NoBits.Statement .readSweep := NoBits.none_spelled _
theorem NoBits.definePilot : NoBits.Statement .definePilot := NoBits.none_spelled _
theorem NoBits.removePilot : NoBits.Statement .removePilot := NoBits.none_spelled _
theorem NoBits.muteChannel : NoBits.Statement .muteChannel := NoBits.none_spelled _
theorem NoBits.unmuteChannel : NoBits.Statement .unmuteChannel := NoBits.none_spelled _
theorem NoBits.readChannel : NoBits.Statement .readChannel := NoBits.none_spelled _
theorem NoBits.openSourcePoint : NoBits.Statement .openSourcePoint := NoBits.none_spelled _
theorem NoBits.slotClaim : NoBits.Statement .slotClaim := NoBits.none_spelled _
theorem NoBits.closeSourcePoint : NoBits.Statement .closeSourcePoint := NoBits.none_spelled _
theorem NoBits.releaseStack : NoBits.Statement .releaseStack := NoBits.none_spelled _
theorem NoBits.setArbiter : NoBits.Statement .setArbiter := NoBits.none_spelled _
theorem NoBits.setMode : NoBits.Statement .setMode := NoBits.none_spelled _
theorem NoBits.setReports : NoBits.Statement .setReports := NoBits.none_spelled _
theorem NoBits.abandonedAttemptFinished (landed : List Bool) : NoBits.Statement (.abandonedAttemptFinished landed) := NoBits.none_spelled _

end Sys2Proof.Laws
end

