-- ==== Sys2Proof/Laws/Staging.lean ====
section
/-! SUPPORT. How the Scan Assembler's operations keep Scan Staging in order (`Assembler.ok`): each keeps the entries and closes some
(`Shrink`), or opens one for a number above the newest. -/

namespace Sys2Proof.Machine

/-- Empty staging is in order. -/
theorem Assembler.ok_empty : (⟨[], none, none⟩ : Assembler).ok := by simp [Assembler.ok, Assembler.fillingEntries]

/-- Staging from which entries leave stays in order. -/
theorem Assembler.ok_of_sublist {a b : Assembler} (h : b.staging.Sublist a.staging) (hn : b.newest = a.newest) (g : a.ok) : b.ok := by
  obtain ⟨g1, g2, g3, g4, g5⟩ := g
  have hf : b.fillingEntries.Sublist a.fillingEntries := h.filter _
  refine ⟨h.length_le.trans g1, hf.length_le.trans g2, g3.sublist h, ?_, g5.sublist hf⟩
  intro e he
  rw [hn]
  exact g4 e (h.subset he)

/-- Two stagings with the same scans and slots, the second with no entry FILLING that the first has not. -/
structure Shrink (a b : List StagingEntry) : Prop where
  len : b.length = a.length
  keys : b.map (fun e => (e.scan, e.slot)) = a.map (fun e => (e.scan, e.slot))
  fill : (b.filter (fun e => e.state == .filling)).map (fun e => e.slot) |>.Sublist
    ((a.filter (fun e => e.state == .filling)).map (fun e => e.slot))

/-- Nothing changed. -/
theorem Shrink.refl (a) : Shrink a a := ⟨rfl, rfl, List.Sublist.refl _⟩
/-- Two changes in turn. -/
theorem Shrink.trans {a b c} (h : Shrink a b) (k : Shrink b c) : Shrink a c :=
  ⟨k.len.trans h.len, k.keys.trans h.keys, k.fill.trans h.fill⟩
/-- One more entry in front of both. -/
theorem Shrink.cons {a b : List StagingEntry} (x y : StagingEntry) (hs : y.scan = x.scan) (hl : y.slot = x.slot)
    (hf : y.state = .filling → x.state = .filling) (h : Shrink a b) : Shrink (x :: a) (y :: b) := by
  refine ⟨by simp [h.len], by simp [hs, hl, h.keys], ?_⟩
  rw [List.filter_cons, List.filter_cons]
  split
  · rename_i hy
    have hx := hf (by simpa using hy)
    rw [if_pos (by simpa using hx)]
    simp only [List.map_cons, hl]
    exact h.fill.cons_cons _
  · split
    · simp only [List.map_cons]
      exact h.fill.cons _
    · exact h.fill

/-- Every entry changed in place. -/
theorem Shrink.map (f : StagingEntry → StagingEntry) (h : ∀ e, (f e).scan = e.scan ∧ (f e).slot = e.slot ∧
    ((f e).state = .filling → e.state = .filling)) :
    ∀ a, Shrink a (a.map f)
  | [] => Shrink.refl _
  | x :: xs => Shrink.cons x (f x) (h x).1 (h x).2.1 (h x).2.2 (Shrink.map f h xs)

/-- Such a change keeps staging in order. -/
theorem Assembler.ok_of_shrink {a b : Assembler} (h : Shrink a.staging b.staging) (hn : b.newest = a.newest) (g : a.ok) : b.ok := by
  obtain ⟨g1, g2, g3, g4, g5⟩ := g
  have k1 : b.staging.map (fun e => e.scan) = a.staging.map (fun e => e.scan) := by
    have := congrArg (List.map Prod.fst) h.keys
    rw [List.map_map, List.map_map] at this
    exact this
  have hm : ∀ l : List StagingEntry, l.Pairwise (fun e f => e.scan < f.scan) ↔ (l.map (fun e => e.scan)).Pairwise (· < ·) :=
    fun l => List.pairwise_map.symm
  have hs : ∀ l : List StagingEntry, l.Pairwise (fun e f => e.slot ≠ f.slot) ↔ (l.map (fun e => e.slot)).Pairwise (· ≠ ·) :=
    fun l => List.pairwise_map.symm
  refine ⟨h.len.trans_le g1, ?_, ?_, ?_, ?_⟩
  · have := h.fill.length_le
    simp only [List.length_map] at this
    exact this.trans g2
  · rw [hm, k1, ← hm]; exact g3
  · intro e he
    have : e.scan ∈ b.staging.map (fun e => e.scan) := List.mem_map_of_mem he
    rw [k1] at this
    obtain ⟨f, hf, hfe⟩ := List.mem_map.1 this
    obtain ⟨n, hn1, hn2⟩ := g4 f hf
    exact ⟨n, hn.trans hn1, by omega⟩
  · rw [hs]
    exact ((hs _).1 g5).sublist h.fill

/-- A forced close keeps the entries and closes some. -/
theorem State.forceClose_shrink (s : State) (e) : Shrink s.assembler.staging (s.forceClose e).assembler.staging ∧
    (s.forceClose e).assembler.newest = s.assembler.newest := by
  constructor
  · refine Shrink.map _ ?_ _
    intro x
    split
    · simp
    · simp
  · rfl

/-- A sample taken keeps the entries. -/
theorem takeSample_shrink (c slot) (l : List StagingEntry) (x) : Shrink l (takeSample c slot l x).1 := by
  unfold takeSample
  split
  · refine Shrink.map _ ?_ _
    intro e
    split
    · rename_i h
      refine ⟨rfl, rfl, fun _ => ?_⟩
      simp [StagingEntry.fillingIn] at h
      exact h.1
    · simp
  · exact Shrink.refl _

/-- Samples taken keep the entries. -/
theorem takeSamples_shrink (c slot) : ∀ (xs) (l : List StagingEntry), Shrink l (takeSamples c slot l xs).1
  | [], _ => Shrink.refl _
  | x :: xs, l => (takeSample_shrink c slot l x).trans (takeSamples_shrink c slot xs _)

/-- A release keeps the entries. -/
theorem releaseComplete_shrink : ∀ l : List StagingEntry, Shrink l (releaseComplete l).1
  | [] => Shrink.refl _
  | e :: es => by
    unfold releaseComplete
    split
    · exact Shrink.cons e e rfl rfl id (releaseComplete_shrink es)
    · split
      · exact Shrink.cons _ _ rfl rfl id (releaseComplete_shrink es)
      · exact Shrink.refl _

/-- An admission first makes its number the newest. -/
theorem State.noteScan_assembler (s : State) (w n) : (s.noteScan w n).assembler = { s.assembler with newest := some n } := by
  unfold State.noteScan
  repeat' split
  all_goals rfl

/-- A ring overrun leaves no FILLING entry of the slot. -/
theorem State.closeSlot_shrink (s : State) (i) (g : s.assembler.fillingEntries.Pairwise (fun e f => e.slot ≠ f.slot)) :
    Shrink s.assembler.staging (s.closeSlot i).assembler.staging ∧
    (s.closeSlot i).assembler.newest = s.assembler.newest ∧ ∀ e ∈ (s.closeSlot i).assembler.staging, e.state = .filling → e.slot ≠ i := by
  unfold State.closeSlot
  split
  · rename_i hf
    refine ⟨Shrink.refl _, rfl, ?_⟩
    intro e he hst hsl
    have := List.find?_eq_none.1 hf e he
    simp [StagingEntry.fillingIn, hst, hsl] at this
  · rename_i f hf
    have hfc := State.forceClose_shrink s f
    refine ⟨hfc.1, hfc.2, ?_⟩
    intro e he hst hsl
    have hff := List.find?_some hf
    have hfm := List.mem_of_find?_eq_some hf
    simp [StagingEntry.fillingIn] at hff
    change e ∈ s.assembler.staging.map _ at he
    obtain ⟨x, hx, hxe⟩ := List.mem_map.1 he
    split at hxe
    · subst hxe; simp at hst
    · rename_i hne
      subst hxe
      have hx2 : x ∈ s.assembler.fillingEntries := by simp [Assembler.fillingEntries, hst]; exact hx
      have hf2 : f ∈ s.assembler.fillingEntries := by simp [Assembler.fillingEntries, hff]; exact hfm
      have hnd : (s.assembler.fillingEntries.map (fun e => e.slot)).Nodup := List.pairwise_map.2 g
      have heq := List.inj_on_of_nodup_map hnd hx2 hf2 (hsl.trans hff.2.symm)
      exact hne (by rw [heq])

/-- A forced close of a FILLING entry leaves fewer of them. -/
theorem forceClose_fewer (c : List Nat) (k : Nat) : ∀ l : List StagingEntry, (∃ e ∈ l, e.state = .filling ∧ e.scan = k) →
    (List.filter (fun e => e.state == StagingState.filling) (List.map
        (fun x : StagingEntry => if x.scan = k then { x with state := .complete, holed := c } else x) l)).length + 1
      ≤ (List.filter (fun e => e.state == StagingState.filling) l).length := by
  intro l
  induction l with
  | nil => simp
  | cons y ys ih =>
    rintro ⟨e, he, hef, hes⟩
    have mono : (List.filter (fun e => e.state == StagingState.filling) (List.map
        (fun x : StagingEntry => if x.scan = k then { x with state := .complete, holed := c } else x) ys)).length ≤ (List.filter (fun e => e.state == StagingState.filling) ys).length := by
      have hh := (Shrink.map (fun x : StagingEntry => if x.scan = k then { x with state := .complete, holed := c } else x)
        (by intro x; split <;> simp) ys).fill.length_le
      simpa using hh
    rcases List.mem_cons.1 he with rfl | he
    · simp [hes, hef]; simpa using mono
    · have := ih ⟨e, he, hef, hes⟩
      simp only [List.map_cons, List.filter_cons]
      by_cases hy : y.scan = k
      · simp only [hy, if_true]
        split
        · rename_i hc; simp at hc
        · split <;> simp <;> omega
      · simp only [hy, if_false]
        split <;> simp <;> omega

/-- The third FILLING entry is closed by force. -/
theorem State.limitFilling_ok (s : State) (g1 : s.assembler.staging.length ≤ 4) (g2 : s.assembler.fillingEntries.length ≤ 3)
   (g3 : s.assembler.staging.Pairwise (fun e f => e.scan < f.scan))
   (g4 : ∀ e ∈ s.assembler.staging, ∃ n, s.assembler.newest = some n ∧ e.scan ≤ n)
   (g5 : s.assembler.fillingEntries.Pairwise (fun e f => e.slot ≠ f.slot)) : s.limitFilling.assembler.ok := by
  unfold State.limitFilling
  split
  · rename_i f rest hcons
    split
    · rename_i hbig
      have hf : f ∈ s.assembler.fillingEntries := by rw [hcons]; simp
      have hsh := State.forceClose_shrink s f
      have hm := List.mem_filter.1 hf
      have hfew := forceClose_fewer (f.missing s.geometry.c) f.scan s.assembler.staging ⟨f, hm.1, by simpa using hm.2, rfl⟩
      have k1 := congrArg (List.map Prod.fst) hsh.1.keys
      rw [List.map_map, List.map_map] at k1
      have k1' : (s.forceClose f).assembler.staging.map (fun e => e.scan) = s.assembler.staging.map (fun e => e.scan) := k1
      refine ⟨hsh.1.len.trans_le g1, ?_, ?_, ?_, ?_⟩
      · change (List.filter _ (List.map _ s.assembler.staging)).length ≤ 2
        have : (List.filter (fun e => e.state == StagingState.filling) s.assembler.staging).length ≤ 3 := g2
        omega
      · exact List.pairwise_map.1 (by rw [k1']; exact List.pairwise_map.2 g3)
      · intro e he
        have hin : e.scan ∈ (s.forceClose f).assembler.staging.map (fun e => e.scan) := List.mem_map_of_mem he
        rw [k1'] at hin
        obtain ⟨x, hx, hxe⟩ := List.mem_map.1 hin
        obtain ⟨m, hm, hle⟩ := g4 x hx
        exact ⟨m, hm, by omega⟩
      · exact List.pairwise_map.1 ((List.pairwise_map.2 g5).sublist hsh.1.fill)
    · rename_i hsmall
      refine ⟨g1, ?_, g3, g4, g5⟩
      rw [hcons]
      simp [Config.fillingCapacity] at hsmall ⊢
      omega
  · rename_i hnil
    exact ⟨g1, by rw [hnil]; simp, g3, g4, g5⟩

/-- The admission of a header that passed its checks keeps staging in order. -/
theorem State.openScan_ok (s : State) (w n) (g : s.assembler.ok) (hl : s.assembler.staging.length < 4)
   (hn : ∀ m, s.assembler.newest = some m → m < n) :
   (s.openScan w n).assembler.ok := by
  obtain ⟨g1, g2, g3, g4, g5⟩ := g
  have e2 := State.noteScan_assembler s w n
  have e3 := State.closeSlot_shrink (s.noteScan w n) w.slot (by rw [e2]; exact g5)
  rw [e2] at e3
  obtain ⟨h1, h2, h3⟩ := e3
  have hok3 : ((s.noteScan w n).closeSlot w.slot).assembler.ok := by
    refine Assembler.ok_of_shrink (a := { s.assembler with newest := some n }) h1 h2 ⟨g1, g2, g3, ?_, g5⟩
    intro e he
    obtain ⟨m, hm, hle⟩ := g4 e he
    exact ⟨n, rfl, by have := hn m hm; omega⟩
  generalize hs3 : (s.noteScan w n).closeSlot w.slot = s3 at *
  have hlt3 : ∀ e ∈ s3.assembler.staging, e.scan < n := by
    intro e he
    have : e.scan ∈ s3.assembler.staging.map (fun e => e.scan) := List.mem_map_of_mem he
    have k1 := congrArg (List.map Prod.fst) h1.keys
    rw [List.map_map, List.map_map] at k1
    have k1' : s3.assembler.staging.map (fun e => e.scan) = s.assembler.staging.map (fun e => e.scan) := k1
    rw [k1'] at this
    obtain ⟨f, hf, hfe⟩ := List.mem_map.1 this
    obtain ⟨m, hm, hle⟩ := g4 f hf
    have := hn m hm
    omega
  obtain ⟨k1, k2, k3, k4, k5⟩ := hok3
  have hlen : s3.assembler.staging.length < 4 := by rw [h1.len]; exact hl
  have hfil : (s3.stageScan w.slot n).assembler.fillingEntries = s3.assembler.fillingEntries ++ [⟨n, w.slot, .filling, [], [], false⟩] := by
    simp [Assembler.fillingEntries, State.stageScan, List.filter_append]
  unfold State.openScan
  rw [hs3]
  refine State.limitFilling_ok _ ?_ ?_ ?_ ?_ ?_
  · simp [State.stageScan]; omega
  · rw [hfil]; simp; omega
  · change (s3.assembler.staging ++ _).Pairwise _
    rw [List.pairwise_append]
    refine ⟨k3, List.pairwise_singleton _ _, ?_⟩
    intro a ha b hb
    simp at hb; subst hb
    exact hlt3 a ha
  · intro e he
    change e ∈ s3.assembler.staging ++ _ at he
    refine ⟨n, h2, ?_⟩
    rcases List.mem_append.1 he with h | h
    · exact (hlt3 e h).le
    · simp at h; subst h; exact le_refl _
  · rw [hfil, List.pairwise_append]
    refine ⟨k5, List.pairwise_singleton _ _, ?_⟩
    intro a ha b hb
    simp at hb; subst hb
    have := List.mem_filter.1 ha
    exact h3 a this.1 (by simpa using this.2)

/-- A header that passes its checks has a number above the newest. -/
theorem Assembler.newest_lt_of_pass {a : Assembler} {w n} (h : a.headerVerdict w = .pass n) : ∀ m, a.newest = some m → m < n := by
  unfold Assembler.headerVerdict at h
  split at h
  · cases h
  · split at h
    · cases h
    · split at h
      · split at h
        · cases h
        · simp only at h
          split at h
          · intro m hm; simp_all
          · split at h
            · cases h
            · rename_i m' hm' hlt
              injection h with h
              intro m hm
              rw [hm'] at hm
              injection hm with hm
              omega
      · cases h

end Sys2Proof.Machine
end

