-- ==== Sys2Proof/Laws/Walks.lean ====
section
/-! SUPPORT. One lemma for each walk over a list: samples joining an entry, the words of a write, the release, the sweeps of a PROCESS item
and the channels of a fold, each said once in the form the statements use. -/

namespace Sys2Proof.Machine

/-- The channel of the new sample holds its value. -/
theorem insertSample_lookup (c : Nat) (v : RawSample) : ∀ l : List (Nat × RawSample), (insertSample c v l).lookup c = some v
  | [] => by simp [insertSample]
  | (d, u) :: rest => by
    have ih := insertSample_lookup c v rest
    unfold insertSample
    split_ifs with h1 h2
    · simp
    · simp
    · have : (c == d) = false := by simpa using h2
      simpa [List.lookup_cons, this] using ih

/-- Every other channel keeps its value. -/
theorem insertSample_lookup_ne (c : Nat) (v : RawSample) (d : Nat) (hd : d ≠ c) :
    ∀ l : List (Nat × RawSample), (insertSample c v l).lookup d = l.lookup d
  | [] => by simp [insertSample, hd]
  | (x, u) :: rest => by
    have ih := insertSample_lookup_ne c v d hd rest
    unfold insertSample
    split_ifs with h1 h2
    · have : (d == c) = false := by simpa using hd
      simp [List.lookup_cons, this]
    · subst h2
      have : (d == c) = false := by simpa using hd
      simp [List.lookup_cons, this]
    · simp only [List.lookup_cons, ih]

/-- What joins is the new sample or was there before. -/
theorem insertSample_mem (c : Nat) (v : RawSample) (p : Nat × RawSample) :
    ∀ l : List (Nat × RawSample), p ∈ insertSample c v l → p = (c, v) ∨ p ∈ l
  | [], h => by simpa [insertSample] using h
  | (d, u) :: rest, h => by
    unfold insertSample at h
    split_ifs at h with h1 h2
    · simpa using h
    · rcases List.mem_cons.1 h with h | h
      · exact .inl h
      · exact .inr (List.mem_cons_of_mem _ h)
    · rcases List.mem_cons.1 h with h | h
      · exact .inr (by rw [h]; exact List.mem_cons_self)
      · rcases insertSample_mem c v p rest h with h | h
        · exact .inl h
        · exact .inr (List.mem_cons_of_mem _ h)

/-- Samples stay in channel order, one for each channel. -/
theorem insertSample_sorted (c : Nat) (v : RawSample) : ∀ l : List (Nat × RawSample), l.Pairwise (fun p q => p.1 < q.1) →
    (insertSample c v l).Pairwise (fun p q => p.1 < q.1) ∧
      (insertSample c v l).length = l.length + (if c ∈ l.map Prod.fst then 0 else 1)
  | [], _ => by simp [insertSample]
  | (d, u) :: rest, h => by
    obtain ⟨h1, h2⟩ := List.pairwise_cons.1 h
    have ih := insertSample_sorted c v rest h2
    unfold insertSample
    split_ifs with h3 h4 h5 h6
    · exfalso
      rcases List.mem_cons.1 (by simpa using h4 : c ∈ d :: rest.map Prod.fst) with h | h
      · omega
      · obtain ⟨p, hp, rfl⟩ := List.mem_map.1 h
        exact absurd (h1 p hp) (by omega)
    · refine ⟨List.pairwise_cons.2 ⟨?_, h⟩, by simp⟩
      intro p hp
      rcases List.mem_cons.1 hp with rfl | hp
      · exact h3
      · exact h3.trans (h1 p hp)
    · subst h5
      exact ⟨List.pairwise_cons.2 ⟨h1, h2⟩, by simp⟩
    · subst h5; simp at h6
    · refine ⟨List.pairwise_cons.2 ⟨?_, ih.1⟩, ?_⟩
      · intro p hp
        rcases insertSample_mem c v p rest hp with rfl | hp
        · show d < c; omega
        · exact h1 p hp
      · rw [List.length_cons, ih.2, if_pos (by rename_i hh; simpa [h5] using hh)]
        simp
    · refine ⟨List.pairwise_cons.2 ⟨?_, ih.1⟩, ?_⟩
      · intro p hp
        rcases insertSample_mem c v p rest hp with rfl | hp
        · show d < c; omega
        · exact h1 p hp
      · rw [List.length_cons, ih.2, if_neg (by rename_i hh; simpa [h5] using hh)]
        simp

/-- The sample words of a write as one fold over them. -/
theorem takeSamples_foldl (c slot : Nat) : ∀ (xs : List (Nat × RawSample)) (l : List StagingEntry) (b : Bool),
    xs.foldl (fun (r : List StagingEntry × Bool) p =>
      if ∃ e ∈ r.1, e.state = .filling ∧ e.slot = slot then
        (r.1.map (fun e => if e.state = .filling ∧ e.slot = slot then
          { e with
            samples := insertSample p.1 p.2 e.samples
            state := if (insertSample p.1 p.2 e.samples).length = c then .complete else .filling } else e), r.2)
      else (r.1, true)) (l, b) = ((takeSamples c slot l xs).1, b || (takeSamples c slot l xs).2)
  | [], l, b => by simp [takeSamples]
  | x :: xs, l, b => by
    rw [List.foldl_cons]
    simp only [takeSamples]
    by_cases h : ∃ e ∈ l, e.state = .filling ∧ e.slot = slot
    · have h2 : l.any (·.fillingIn slot) = true := by simpa [StagingEntry.fillingIn] using h
      rw [if_pos h, takeSamples_foldl]
      simp only [takeSample, h2, if_true, Bool.false_or]
      have : ∀ e : StagingEntry, (if e.state = .filling ∧ e.slot = slot then
          { e with
            samples := insertSample x.1 x.2 e.samples
            state := if (insertSample x.1 x.2 e.samples).length = c then .complete else .filling } else e) =
          (if e.fillingIn slot = true then e.take c x else e) := by
        intro e
        simp [StagingEntry.fillingIn, StagingEntry.take]
      simp only [this]
    · have h2 : l.any (·.fillingIn slot) = false := by
        rw [Bool.eq_false_iff]; intro hh; exact h (by simpa [StagingEntry.fillingIn] using hh)
      rw [if_neg h, takeSamples_foldl]
      simp [takeSample, h2]

/-- The release of every entry before the first FILLING one. -/
theorem releaseComplete_split : ∀ front after : List StagingEntry, (∀ k ∈ front, k.released = true ∨ k.state = .complete) →
    (∀ k l, after = k :: l → k.released = false ∧ k.state = .filling) →
    releaseComplete (front ++ after) =
      (front.map (fun k => { k with released := true }) ++ after, (front.filter (fun k => !k.released)).map (·.scan))
  | [], [], _, _ => rfl
  | [], k :: l, _, h => by
    obtain ⟨h1, h2⟩ := h k l rfl
    simp [releaseComplete, h1, h2]
  | k :: front, after, h, g => by
    have ih := releaseComplete_split front after (fun x hx => h x (List.mem_cons_of_mem _ hx)) g
    rw [List.cons_append, releaseComplete, ih]
    cases hk : k.released with
    | true =>
      simp [hk]; cases k; simp_all
    | false =>
      have : k.state = .complete := by
        rcases h k List.mem_cons_self with h | h
        · simp [hk] at h
        · exact h
      simp [hk, this]

/-- After the last entry the PROCESS item frees its scan. -/
theorem State.serveFrom_nil (t : Nat) (m : State) : State.serveFrom t [] m = { m with
    engine := { m.engine with work := none }
    assembler := { m.assembler with staging := m.assembler.staging.filter (fun e => !(e.released && e.scan == t)) } } := rfl

/-- A live sweep is an entry of the table. -/
theorem State.sweep?_eq_some (m : State) (e : Nat) (w : Sweep) : m.sweep? e = some w ↔ m.sweeps.table[e]? = some (some w) := by
  unfold State.sweep?
  cases h : m.sweeps.table[e]? with
  | none => simp
  | some x => cases x <;> simp

/-- The correlation states. -/
theorem SweepState.correlation_iff (x : SweepState) : x.correlation = true ↔ x = .noticed ∨ x = .correlating ∨ x = .stalled := by
  cases x <;> simp [SweepState.correlation]

/-- An entry whose sweep the scan does not reach is passed over. -/
theorem State.serveFrom_skip (t e : Nat) (entries : List Nat) (m : State)
    (h : ∀ w, m.sweeps.table[e]? = some (some w) → w.state = .noticed ∨ w.state = .correlating ∨ w.state = .stalled →
      t < w.start) :
    State.serveFrom t (e :: entries) m = State.serveFrom t entries m := by
  rw [State.serveFrom]
  cases hw : m.sweep? e with
  | none => rfl
  | some w =>
    have := h w ((State.sweep?_eq_some m e w).1 hw)
    rw [← SweepState.correlation_iff] at this
    have hc : (w.state.correlation && decide (w.start ≤ t)) = false := by
      rw [Bool.and_eq_false_iff, decide_eq_false_iff_not]
      by_cases h : w.state.correlation = true
      · exact .inr (by have := this h; omega)
      · exact .inl (by simpa using h)
    simp [hc]

/-- A sweep that the scan reaches is served, and the walk goes on when it waits for no transfer. -/
theorem State.serveFrom_reached (t e : Nat) (entries : List Nat) (m : State) (w : Sweep) (hw : m.sweeps.table[e]? = some (some w))
    (hs : w.state = .noticed ∨ w.state = .correlating ∨ w.state = .stalled) (ht : w.start ≤ t) :
    State.serveFrom t (e :: entries) m = match m.serveSweep t e w with
      | (true, s1) => s1
      | (false, s1) => State.serveFrom t entries s1 := by
  rw [State.serveFrom, (State.sweep?_eq_some m e w).2 hw]
  have hc : (w.state.correlation && decide (w.start ≤ t)) = true := by
    rw [Bool.and_eq_true, decide_eq_true_iff]; exact ⟨(SweepState.correlation_iff _).2 hs, ht⟩
  exact if_pos hc

/-- Channels that are all muted or holed are counted, and the fold ends. -/
theorem State.foldFrom_end (w : Sweep) (faulted : Bool) : ∀ (rest : List Nat) (f : FoldWork) (s : State),
    (∀ c ∈ rest, c ∉ w.activeSet.getD [] ∨ c ∈ w.holedSet) →
    State.foldFrom w faulted rest f s = s.foldEnd { f with
      muted := f.muted + (rest.filter (fun c => c ∉ w.activeSet.getD [])).length
      holed := f.holed + (rest.filter (fun c => c ∈ w.activeSet.getD [])).length } w .stacked
  | [], f, s, _ => by simp [State.foldFrom]
  | c :: rest, f, s, h => by
    have ih := fun g => State.foldFrom_end w faulted rest g s (fun x hx => h x (List.mem_cons_of_mem _ hx))
    have hc := h c List.mem_cons_self
    rw [State.foldFrom]
    by_cases ha : c ∈ w.activeSet.getD []
    · have hb : c ∈ w.holedSet := by tauto
      have ha2 : w.active.contains c = true := by simpa [Sweep.active] using ha
      have hb2 : w.holedSet.contains c = true := by simpa using hb
      simp only [ha2, hb2, Bool.not_true, Bool.false_eq_true, if_false, if_true]
      rw [ih]
      simp [ha, Nat.add_assoc, Nat.add_comm 1]
    · have ha2 : w.active.contains c = false := by
        rw [Bool.eq_false_iff]; intro hh; exact ha (by simpa [Sweep.active] using hh)
      simp only [ha2, Bool.not_false, if_true]
      rw [ih]
      simp [ha, Nat.add_assoc, Nat.add_comm 1]

end Sys2Proof.Machine
end

