-- ==== Sys2Proof/WellFormed.lean ====
section
/-! DEFINITION. Which terms of Instr stand for a step of the part. The operands' widths are in their types (a 4-bit requester, a
40-bit address). What is left to check is an index into a table of fixed size and the number of words of a transfer. A malformed
TRANSACTION (R118) is a well-formed command: the part answers it. -/

namespace Sys2Proof

/-- A transfer holds at most 16 words, so the DRAM decides on at most 16 (R137). -/
def DramAnswer.wellFormed : DramAnswer → Bool
  | .ok => true
  | .fault landed => decide (landed.length ≤ 16)

/-- The check of a command's operands. -/
def Instr.wellFormed : Instr → Bool
  | .lineReset _ => true
  | .tick => true
  | .stallTimerExpiry => true
  | .discardCountdownExpiry entry => decide (entry < Config.drqCount)
  | .upstreamWrite _ _ _ => true
  | .rawWindowWrite _ _ _ => true
  | .consumerIndexWrite _ _ _ => true
  | .upstreamRead _ _ _ => true
  | .passThroughReadIssue => true
  | .passThroughReadAnswer a => a.wellFormed
  | .pwbDeliveryAnswer a => a.wellFormed
  | .attemptBusy => true
  | .clearSweep => true
  | .processScan => true
  | .engineTransferAnswer a => a.wellFormed
  | .clearSlot => true
  | .fold => true
  | .seal => true
  | .stackUnitTransferAnswer a => a.wellFormed
  | .drqFetchAnswer a => a.wellFormed
  | .pilotCheckStart => true
  | .pilotCheckReadAnswer a => a.wellFormed
  | .reportWriteAnswer a => a.wellFormed
  | .producerWriteAnswer a => a.wellFormed
  | .mirrorWriteAnswer a => a.wellFormed
  | .busyWriteHanded => true
  | .commandSlotWriteAnswer a => a.wellFormed
  | .badKindCommand => true
  | .setGeometry => true
  | .setWindow => true
  | .windowChange => true
  | .setTimers => true
  | .readState => true
  | .engineReset => true
  | .engineResetScanAssembler => true
  | .engineResetDone => true
  | .noticeSweep => true
  | .cancelSweep => true
  | .readSweep => true
  | .definePilot => true
  | .removePilot => true
  | .muteChannel => true
  | .unmuteChannel => true
  | .readChannel => true
  | .openSourcePoint => true
  | .slotClaim => true
  | .closeSourcePoint => true
  | .releaseStack => true
  | .setArbiter => true
  | .setMode => true
  | .setReports => true
  | .abandonedAttemptFinished landed => decide (landed.length ≤ 16)

end Sys2Proof
end

