-- ==== Sys2Proof/Tests/Slice0.lean ====
section
/-! SUPPORT. Tests of the model on small states: the well-formedness check refuses ill-formed terms; and for each obligation a state and
operands that meet its hypotheses together, with what the step then leaves. -/

namespace Sys2Proof.Tests

open Sys2Proof Sys2Proof.Machine

set_option Elab.async false
set_option maxRecDepth 20000
set_option synthInstance.maxSize 4000
set_option synthInstance.maxHeartbeats 400000

/-! ### Helpers -/

/-- The state that a step leaves. -/
def after (i : Instr) (s : State) : State := match exec i s with
  | .next t => t
  | .fault _ => s
  | .refused _ => s

/-- Reset with four channels and no mirror record stale, so that no client has anything to present. -/
def quiet : State := { State.reset with
  channels := List.replicate 4 Channel.atReset
  reports := { Reports.atReset with stale := List.replicate 32 false } }

/-- Four channels, eight lags, all windows on, in ACQUIRE. -/
def live : State := { quiet with
  geometry := ⟨4, 8, 64⟩
  windows := ⟨some ⟨0x100000, 16, .tap⟩, some ⟨0x200000, 2⟩, some ⟨0x300000⟩, some ⟨0x400000, 0x400fff⟩⟩
  mode := .acquire
  requestedMode := .acquire }

/-- The same in IDLE. -/
def still : State := { live with mode := .idle, requestedMode := .idle }

/-- A command at the head of the queue. -/
def head (k : Nat) (ops : List Word) : QueueEntry := ⟨0, BitVec.ofNat 16 k, 7, ops⟩

/-- The state with that command at the head of its queue. -/
def ask (k : Nat) (ops : List Word) (s : State) : State := { s with commands := { s.commands with queue := [head k ops] } }

/-- The state with a command in progress. -/
def during (k : Nat) (ops : List Word) (p : CommandProgress) (s : State) : State :=
  { s with commands := { s.commands with queue := [head k ops], progress := some p } }

/-- A transfer that has met no BUSY. -/
def fresh (t : Transfer) : Outstanding := ⟨t, 0, false⟩

/-- The state with a client's transfer at the DRAM. -/
def atClient (c : Client) (t : Transfer) (s : State) : State :=
  { s with port := { s.port.setClient c ⟨some (fresh t), none⟩ with current := some c, attempt := some .part } }

/-- The state with a forwarding transfer at the DRAM. -/
def atForward (x : ForwardSource) (t : Transfer) (s : State) : State :=
  { s with port := { s.port with forward := some (x, fresh t), attempt := some .forwarding } }

/-- The state with a sweep, a directory entry, a pilot entry, a deferred read. -/
def withSweep (e : Nat) (w : Sweep) (s : State) : State :=
  { s with sweeps := { s.sweeps with table := s.sweeps.table.set e (some w) } }
def withSlot (i : Nat) (d : DirEntry) (s : State) : State := { s with directory := s.directory.set i d }
def withPilot (p : PilotEntry) (s : State) : State := { s with pilots := s.pilots.set 3 p }
def withRead (e : DrqEntry) (s : State) : State := { s with drq := { s.drq with entries := s.drq.entries.set 1 (some e) } }

/-- A NOTICED sweep of pilot 3, a correlating one at scan 105, and one that waits for its stacking fold into slot 1. -/
def noticed : Sweep := ⟨5, 9, 1, 100, .stored 3, 64, 8, 0, 3, 1, 1, none, none, [], .noticed, none, false, none, 0⟩
def running : Sweep := { noticed with
  start := 104, pilot := .captured 2, state := .correlating, lastScan := some 104, startingSet := some [0, 2],
  activeSet := some [0, 2], heldSample := 0x1234 }
def waits : Sweep := { noticed with
  state := .foldWait, outcome := some .stacked, startingSet := some [0, 1, 2, 3], activeSet := some [1, 2, 3], holedSet := [1] }

/-- An OPEN slot of the source point 9 with one contribution of two. -/
def opened : DirEntry := ⟨.opened, 9, 2, 8, 0, 3, 1, 1, 1000, 2, false, false, [⟨4, .stacked, 1, 1, 1, 1⟩], [0, 5, 0, 0]⟩

/-- A READY pilot that no sweep uses. -/
def ready : PilotEntry := ⟨.ready, 0x400010, 64, 5, 0⟩

/-- A released scan with channel 1 holed, and a FILLING one. -/
def scan105 : StagingEntry := ⟨105, 3, .complete, [(0, 10), (2, -512), (3, 7)], [1], true⟩
def filling (n slot : Nat) : StagingEntry := ⟨n, slot, .filling, [], [], false⟩

/-- The state with the scan in hand. -/
def withScan (s : State) : State := { s with assembler := ⟨[scan105], some 106, none⟩ }

/-- The engine in the middle of a PROCESS item, and the Stack Unit of an item. -/
def engineAt (p : ProcessPhase) (s : State) : State := { s with engine := ⟨[], some ⟨0, 5, false, .process 105 p⟩⟩ }
def stackAt (j : StackJob) (faulted : Bool) (s : State) : State := { s with stackUnit := ⟨[], some ⟨j, faulted⟩⟩ }

/-- A fold of the sweep of entry 3 with channel 2 in hand. -/
def folding (ph : FoldPhase) (values : List Accumulator) : FoldWork := ⟨3, 1, 2, [3], values, ph, [1], 2, 1, 4⟩

/-- A report record, and the state with the Report Unit's write at the DRAM. -/
def aRecord : Record := ⟨.protect, false, 3, none, 1, none⟩
def writing (w : ReportWrite) (discarded : Bool) : State := atClient .reportUnit (.write 0x8060 [1]) { live with
  reports := { live.reports with size := 16, producer := 3, consumer := 5, out := some ⟨w, discarded⟩ } }

/-! ### Well-formed terms -/

theorem test_wellFormed_entry_refused : (Instr.discardCountdownExpiry 8).wellFormed = false := by decide
theorem test_wellFormed_entry_taken : (Instr.discardCountdownExpiry 7).wellFormed = true := by decide
theorem test_wellFormed_answers_refused : [Instr.passThroughReadAnswer, .pwbDeliveryAnswer, .engineTransferAnswer,
    .stackUnitTransferAnswer, .drqFetchAnswer, .pilotCheckReadAnswer, .reportWriteAnswer, .producerWriteAnswer, .mirrorWriteAnswer,
    .commandSlotWriteAnswer].all (fun row => !(row (.fault (List.replicate 17 true))).wellFormed &&
      (row (.fault (List.replicate 16 true))).wellFormed && (row .ok).wellFormed) = true := by decide
theorem test_wellFormed_abandoned_refused :
    (Instr.abandonedAttemptFinished (List.replicate 17 false)).wellFormed = false := by decide

/-! ### The machine -/

theorem test_reset_settings : State.reset.mode = .idle ∧ State.reset.attn = false ∧ State.reset.settle.port.reportUnit.out.isSome := by
  decide +kernel

/-- An empty queue idles; a row that is not due changes nothing. -/
theorem test_idle_and_not_due : (∃ t, step quiet = .next t ∧ t = quiet) ∧ Instr.fold.due quiet.settle = false ∧
    after .fold quiet = quiet := ⟨⟨quiet, rfl, rfl⟩, by decide +kernel, by decide +kernel⟩

/-- LineResetState: with nothing left at the DRAM and with an attempt left there. -/
theorem test_lineReset : (after (.lineReset 2) live).port.attempt = some .part ∧
    (after (.lineReset 2) (atClient .engine (.write 64 [1]) live)).port.abandoned = some (.write 64 [1]) ∧
    (after (.lineReset 2) (atClient .engine (.write 64 [1]) live)).port.attempt = none := by decide +kernel

/-- SettleFrame: an outstanding transfer of a client, of the forwarding side, an attempt, and the Report Unit's. -/
theorem test_settle_keeps : (atClient .reportUnit (.read 0 1) live).port.reportUnit.out.isSome = true ∧
    (atClient .reportUnit (.read 0 1) live).settle = atClient .reportUnit (.read 0 1) live ∧
    (atForward .delivery (.read 0 1) live).settle = atForward .delivery (.read 0 1) live := by decide +kernel

/-- SettleFrame: SET_MODE has begun before a write to the RAW window is decided; a slot is claimed before the read that holds the port is
looked at again, and a window changes before a write is decided. -/
theorem test_atOnce : let s := ask 19 [2, 0] still
    let read := atForward .passThroughRead (.read 0x200540 1) { (withSlot 0 opened live) with held := some ⟨2, 0x200540, 1, true⟩ }
    let claim := during 15 [12, 0x00080020, 0x00030000, 0x00020001, 7, 0] (.openSourcePoint 1) read
    let w := { live with windows := { live.windows with raw := none } }
    let change := during 2 [1, 0x500000, 0, 16, 1] (.setWindow (.raw (some ⟨0x500000, 16, .absorb⟩))) w
    s.settle.overdue = true ∧ s.caughtUp = (after .setMode s).caughtUp ∧ s.caughtUp.mode = .acquire ∧
    (after (.rawWindowWrite 2 0x100080 [9, 0]) s).assembler = ⟨[filling 9 2], some 9, none⟩ ∧
    (after (.passThroughReadAnswer .ok) read).answer = some (.data [0]) ∧
    claim.settle.overdue = true ∧ claim.caughtUp = (after .slotClaim claim).caughtUp ∧
    (after (.passThroughReadAnswer .ok) claim).answer = some .retry ∧
    change.settle.overdue = true ∧ (after (.upstreamWrite 2 0x500000 [3, 0]) change).assembler.newest = some 3 := by decide +kernel

/-- ArbiterDecision: the five rows of R141's table, at a slice count at the slice and below it; a part side that starts a turn. -/
theorem test_arbiter : let p := live.port
    let f := { p with forward := some (.delivery, fresh (.read 0 1)) }
    let b := { f with engine := ⟨some (fresh (.read 0 1)), none⟩, sliceCount := 7 }
    p.arbitrate = p ∧ f.arbitrate.attempt = some .forwarding ∧
    { p with engine := ⟨some (fresh (.read 0 1)), none⟩ }.arbitrate.holder = .part ∧
    b.arbitrate.sliceCount = 8 ∧ b.arbitrate.attempt = some .forwarding ∧
    { b with sliceCount := 8 }.arbitrate.holder = .part ∧ { b with sliceCount := 8 }.arbitrate.current = some .engine := by decide +kernel

/-- TickAndDiscard: no countdown at its end; the Stall Timer at its end; a discard countdown at its end with the timer stopped and with it
running. -/
theorem test_tick : let e : DrqEntry := ⟨1, 8, 1, 1, .ready, [3], 2⟩
    let s := withRead e { live with sweeps := { live.sweeps with stallTimer := some 2 } }
    s.caughtUp.drq.entries.length = 8 ∧ (after .tick s).sweeps.stallTimer = some 1 ∧
    (after .tick s).drq.entries[1]? = some (some { e with countdown := 1 }) ∧
    (after .tick (withSweep 0 running { live with sweeps := { live.sweeps with stallTimer := some 1 } })).sweeps.stallTimer = some 2000 ∧
    (after .tick (withRead { e with countdown := 1 } live)).drq.entries[1]? = some none ∧
    (after .tick (withRead { e with countdown := 1 } live)).reports.pendingKinds = [⟨.readDiscarded, 1, 8, some 1⟩] ∧
    after (.discardCountdownExpiry 1) (withRead { e with countdown := 1 } s) = after .tick (withRead { e with countdown := 1 } s) ∧
    after (.discardCountdownExpiry 1) s = s := by decide +kernel

/-- StallExpiry: a STALLED sweep is aborted, a CORRELATING one stalls. -/
theorem test_stallExpiry : let s := withSweep 1 { running with state := .stalled, tag := 6 } (withSweep 0 running
      { live with sweeps := { live.sweeps with stallTimer := some 1 } })
    s.caughtUp.sweeps.stallTimer = some 1 ∧ (after .stallTimerExpiry s).liveSweeps.map (fun p => p.2.state) = [.stalled, .foldWait] ∧
    (after .stallTimerExpiry s).sweeps.stallTimer = some 2000 := by decide +kernel

/-- BusyAnswer: forwarding and part side at 1,023 BUSYs and at 1,024. -/
theorem test_busy : let s := fun (n : Nat) => { (atForward .delivery (.write 0x80 [7]) live) with
      pwb := [⟨1, 0x80, [7]⟩]
      port := { (atForward .delivery (.write 0x80 [7]) live).port with forward := some (.delivery, ⟨.write 0x80 [7], n, false⟩) } }
    let g := atClient .engine (.read 0 1) live
    (s 1023).caughtUp.port.attempt = some .forwarding ∧
    (after .attemptBusy (s 1023)).port.forward = some (.delivery, ⟨.write 0x80 [7], 1024, false⟩) ∧
    (after .attemptBusy (s 1024)).pwb = [] ∧ (after .attemptBusy (s 1024)).memory = [] ∧
    (after .attemptBusy (s 1024)) = after (.pwbDeliveryAnswer (.fault [])) (s 1024) ∧
    (after .attemptBusy g).port.engine = ⟨some ⟨.read 0 1, 1, false⟩, none⟩ := by decide +kernel

/-- MemoryWordsChange: a canonical memory, a word that becomes the unlisted value, a word outside. -/
theorem test_memory : let m : Memory := [(4, 1), (8, 2)]
    m.wf ∧ m.writeWords 8 [0, 5] = [(4, 1), (12, 5)] ∧ (m.writeWords 8 [0, 5]).readWords 8 2 = [0, 5] ∧
    (m.writeWords 8 [0, 5]).read 4 = m.read 4 := by decide +kernel

/-! ### The path -/

/-- MalformedTransaction: each condition, for a write row and a read, where two hold the first. -/
theorem test_malformed : live.caughtUp.held = none ∧
    [Instr.upstreamWrite 2 0x40 [], .upstreamRead 2 0x41 17, .rawWindowWrite 2 0x41 [1], .upstreamRead 2 0x7c 2].map (fun i =>
      ((after i live).answer, (after i live).reports.pendingKinds.map (fun p => (p.kind, p.subject)))) =
    [(some .abort, [(.malformed, 0x40)]), (some .abort, [(.malformed, 0x41)]), (some .abort, [(.malformed, 0x41)]),
      (some .abort, [(.malformed, 0x7c)])] := by decide +kernel

/-- ProtectedWriteRefused: a slot, the scratch, a pilot extent, a busy command slot, the part's own regions and their last word. -/
theorem test_protected : let s := withSlot 1 opened (withPilot { ready with useCount := 1 } { live with
      commands := { live.commands with slots := live.commands.slots.set 3 { CommandSlot.atReset with busy := true } } })
    s.caughtUp.held = none ∧ s.caughtUp.region 0x200540 = .stack ∧ s.caughtUp.slotStateAt 0x200540 = .opened ∧
    [0x200540, 0x300000, 0x40008c, 0x60, 0x100, 0x400, 0x7fc, 0x8000].map (fun a =>
      ((after (.upstreamWrite 2 a [1]) s).answer, (after (.upstreamWrite 2 a [1]) s).reports.pendingKinds.map (·.kind))) =
    List.replicate 8 (some .abort, [.protect]) := by decide +kernel

/-- WriteWithoutRoomRetried: a full buffer; four staged scans. -/
theorem test_retry : let s := { live with pwb := List.replicate 32 ⟨1, 0x500000, [1]⟩ }
    let t := { live with
      windows := { live.windows with raw := some ⟨0x100000, 16, .absorb⟩ }
      assembler := ⟨[filling 1 1, filling 2 2, { filling 3 3 with state := .complete }, { filling 4 4 with state := .complete }],
        some 4, none⟩ }
    s.caughtUp.region 0x500000 = .outside ∧ s.caughtUp.refusal 0x500000 1 = none ∧
    (after (.upstreamWrite 2 0x500000 [1]) s).answer = some .retry ∧
    (after (.upstreamWrite 2 0x100000 [9, 0]) t).answer = some .retry ∧
    (after (.upstreamWrite 2 0x100000 [9, 0]) t).assembler = t.assembler := by decide +kernel

/-- PlainWriteBuffered: outside, a FREE slot, the RAW window in IDLE, each end of the Control Area's plain words, and a pilot that becomes
FAULTED. -/
theorem test_plainWrite : let s := withPilot ready live
    s.caughtUp.pwb.length < 32 ∧
    (after (.upstreamWrite 2 0x500000 [1]) s).pwb = [⟨2, 0x500000, [1]⟩] ∧
    (after (.upstreamWrite 2 0x200000 [1]) s).answer = some .accept ∧
    (after (.rawWindowWrite 2 0x100000 [1]) still).pwb = [⟨2, 0x100000, [1]⟩] ∧
    [0x104, 0x13c, 0x144, 0x3fc, 0x800, 0x7ffc].map (fun a => (after (.upstreamWrite 2 a [1]) s).pwb) =
      [0x104, 0x13c, 0x144, 0x3fc, 0x800, 0x7ffc].map (fun a => [⟨2, a, [1]⟩]) ∧
    ((after (.upstreamWrite 2 0x40008c [1]) s).pilotEntry 3).state = .faulted ∧
    ((after (.upstreamWrite 2 0x400090 [1]) s).pilotEntry 3).state = .ready := by decide +kernel

/-- CommandSlotWrite: a write with word 0 posts, one of the last word does not, and one that goes on into the next slot posts that one. -/
theorem test_commandSlotWrite : let c : CommandSlot := ⟨[1, 2, 3, 4, 5, 6, 7, 8], false, none, true⟩
    let s := { live with commands := { live.commands with slots := live.commands.slots.set 3 c } }
    s.caughtUp.commands.slots[3]? = some c ∧ s.caughtUp.commands.slots.length = 8 ∧
    (after (.upstreamWrite 2 0x60 [0x00090004, 11]) s).commands.queue = [⟨3, 4, 9, [11, 3, 4, 5, 6, 7]⟩] ∧
    (after (.upstreamWrite 2 0x60 [0x00090004, 11]) s).commands.busyWaits = [3] ∧
    (after (.upstreamWrite 2 0x7c [5]) s).commands.slots[3]? = some { c with copy := [1, 2, 3, 4, 5, 6, 7, 5] } ∧
    s.caughtUp.commands.slots[2]? = some CommandSlot.atReset ∧
    (after (.upstreamWrite 2 0x5c [5, 0x000a0004]) s).commands.slots[2]? =
      some { CommandSlot.atReset with copy := [0, 0, 0, 0, 0, 0, 0, 5] } ∧
    (after (.upstreamWrite 2 0x5c [5, 0x000a0004]) s).commands.queue = [⟨3, 4, 10, [2, 3, 4, 5, 6, 7]⟩] ∧
    (after (.upstreamWrite 2 0x40 (0x00010004 :: List.replicate 8 9)) s).commands.busyWaits = [2, 3] ∧
    (after (.upstreamWrite 2 0x40 (0x00010004 :: List.replicate 8 9)) s).commands.queue =
      [⟨2, 4, 1, [9, 9, 9, 9, 9, 9]⟩, ⟨3, 9, 0, [2, 3, 4, 5, 6, 7]⟩] := by decide +kernel

/-- HeaderAdmitted: a gap in TAP mode, and the first header in ABSORB mode with a number above 32 bits; the refusals with and without a
sample; a FILLING scan of the slot, and a third one, closed by force, with a sample in the header's write. -/
theorem test_headerAdmitted : let s := { live with assembler := ⟨[filling 5 1], some 5, none⟩ }
    let t := { live with windows := { live.windows with raw := some ⟨0x100000, 16, .absorb⟩ } }
    s.caughtUp.region 0x100080 = .raw ∧
    (after (.rawWindowWrite 2 0x100080 [9, 0]) s).assembler = ⟨[filling 5 1, filling 9 2], some 9, none⟩ ∧
    (after (.rawWindowWrite 2 0x100080 [9, 0]) s).reports.pendingKinds = [⟨.scanGap, 1, 6, some 2⟩] ∧
    (after (.rawWindowWrite 2 0x100080 [9, 1]) t).assembler = ⟨[filling (2 ^ 32 + 9) 2], some (2 ^ 32 + 9), none⟩ ∧
    (after (.rawWindowWrite 2 0x100080 [9, 1]) t).pwb = [] ∧
    [(0x100080, [9]), (0x100084, [9, 7]), (0x100080, [9, 0x10000]), (0x100080, [5, 0, 7])].map (fun x =>
        let y := after (.rawWindowWrite 2 x.1 x.2) s;
        (y.reports.pendingKinds, y.assembler.stray.map (·.address), y.assembler.staging == s.assembler.staging)) =
      [([⟨.badHeader, 1, 0x100080, some 2⟩], none, true), ([⟨.badHeader, 1, 0x100084, some 2⟩], some 0x100084, true),
        ([⟨.badHeader, 1, 0x100080, some 2⟩], none, true), ([⟨.scanRewind, 1, 5, some 2⟩], some 0x100080, true)] ∧
    (after (.rawWindowWrite 2 0x100040 [6, 0, 7]) s).assembler.staging =
      [{ filling 5 1 with state := .complete, holed := [0, 1, 2, 3], released := true }, { filling 6 1 with samples := [(0, 7)] }] ∧
    (after (.rawWindowWrite 2 0x100040 [6, 0, 7]) s).reports.pendingKinds = [⟨.scanForced, 1, 5, none⟩] ∧
    (after (.rawWindowWrite 2 0x1000c0 [7, 0]) { live with assembler := ⟨[{ filling 5 1 with samples := [(2, 4)] }, filling 6 2],
      some 6, none⟩ }).assembler.staging =
      [{ filling 5 1 with samples := [(2, 4)], state := .complete, holed := [0, 1, 3], released := true }, filling 6 2,
        filling 7 3] := by decide +kernel

/-- SampleTaken: a stray, a sample that leaves its scan FILLING, and one that completes it, with the most negative value; and one that
releases two scans, with a stray mark set and a sweep STALLED. -/
theorem test_sampleTaken : let s := { live with assembler := ⟨[filling 5 1], some 5, none⟩ }
    let full := { filling 6 2 with samples := [(0, 1), (1, 2), (3, 4)] }
    let t := { live with assembler := ⟨[full], some 6, none⟩, sweeps := { live.sweeps with stallTimer := some 3 } }
    s.caughtUp.region 0x100090 = .raw ∧
    (after (.upstreamWrite 2 0x100090 [7]) s).assembler.stray = some ⟨0x100090, 2, 1⟩ ∧
    (after (.upstreamWrite 2 0x100050 [7]) s).assembler.staging = [{ filling 5 1 with samples := [(2, 7)] }] ∧
    (after (.upstreamWrite 2 0x100090 [0xff800000]) t).assembler.staging =
      [{ full with samples := [(0, 1), (1, 2), (2, -8388608), (3, 4)], state := .complete, released := true }] ∧
    (after (.upstreamWrite 2 0x100090 [0xff800000]) t).engine.list = [.process 6] ∧
    (after (.upstreamWrite 2 0x100090 [0xff800000]) t).sweeps.stallTimer = some 2000 ∧
    (let u := after (.upstreamWrite 2 0x100090 [3]) (withSweep 3 { running with state := .stalled } { t with
        assembler := ⟨[full, { filling 7 3 with state := .complete }, filling 8 4], some 8, some ⟨0x100018, 3, 2⟩⟩ });
      u.engine.list = [.process 6, .process 7] ∧ u.assembler.staging.map (·.released) = [true, true, false] ∧
      u.assembler.stray = none ∧ u.sweep? 3 = some running ∧
      u.reports.pendingKinds = [⟨.straySample, 1, 0x100018, some 3⟩, ⟨.streamResumed, 1, 0, none⟩]) := by decide +kernel

/-- SampleTaken, writes of several words: one that completes a scan behind an older FILLING one, with a padding word; one whose further
words find the scan complete, so that the release reports them; strays while a COMPLETE scan waits; a channel received twice. -/
theorem test_samplesOfAWrite : let s := { live with assembler := ⟨[filling 5 1, filling 6 2], some 6, none⟩ }
    let full := { filling 6 2 with samples := [(0, 1), (1, 2), (2, 3), (3, 4)], state := .complete }
    let t := after (.rawWindowWrite 2 0x100088 [1, 2, 3, 4, 9]) s
    let u := after (.rawWindowWrite 2 0x100088 [7, 2, 3]) { live with
      assembler := ⟨[{ filling 6 2 with samples := [(1, 2), (2, 3), (3, 4)] }], some 6, none⟩ }
    s.caughtUp.assembler.staging = [filling 5 1, filling 6 2] ∧ s.caughtUp.region 0x100088 = .raw ∧
    t.assembler = ⟨[filling 5 1, full], some 6, none⟩ ∧ t.engine.list = [] ∧ t.answer = some .accept ∧
    u.assembler.staging = [{ full with samples := [(0, 7), (1, 2), (2, 3), (3, 4)], released := true }] ∧
    u.engine.list = [.process 6] ∧ u.assembler.stray = none ∧ u.reports.pendingKinds = [⟨.straySample, 1, 0x100088, some 2⟩] ∧
    (after (.rawWindowWrite 3 0x10008c [1, 2]) { s with assembler := ⟨[filling 5 1, full], some 6, none⟩ }).assembler =
      ⟨[filling 5 1, full], some 6, some ⟨0x10008c, 3, 1⟩⟩ ∧
    (after (.rawWindowWrite 3 0x10004c [8, 9]) { s with assembler := ⟨[{ filling 5 1 with samples := [(0, 1), (2, 3)] }, filling 6 2],
      some 6, some ⟨0x10008c, 3, 65535⟩⟩ }).assembler =
      ⟨[{ filling 5 1 with samples := [(0, 1), (1, 8), (2, 9)] }, filling 6 2], some 6, some ⟨0x10008c, 3, 65535⟩⟩ := by
  decide +kernel

/-- ConsumerIndexTaken: the producer index itself is the last value taken, the next is ignored, and all without a ring; words after it. -/
theorem test_consumerIndex : let s := { live with reports := { live.reports with
      size := 16, producer := 3, consumer := 14, pendingKinds := [⟨.protect, 2, 3, none⟩] } }
    s.caughtUp.controlBase + 0x140 = 0x140 ∧
    (after (.consumerIndexWrite 2 0x140 [3]) s).reports.consumer = 3 ∧
    (after (.consumerIndexWrite 2 0x140 [3]) s).reports.pendingKinds = [] ∧
    (after (.consumerIndexWrite 2 0x140 [4]) s).reports.consumer = 14 ∧
    (after (.consumerIndexWrite 2 0x140 [0]) live).reports.consumer = 0 ∧
    (after (.upstreamWrite 2 0x140 (3 :: List.replicate 15 9)) s).reports.consumer = 3 ∧
    (after (.upstreamWrite 2 0x140 (3 :: List.replicate 15 9)) s).pwb = [⟨2, 0x140, 3 :: List.replicate 15 9⟩] ∧
    (after (.consumerIndexWrite 2 0x140 [4, 3]) s).reports.consumer = 14 := by decide +kernel

/-- PassThroughReadHolds: with the buffer empty, with a write in it, and issued later. -/
theorem test_readHolds : let s := { live with pwb := [⟨1, 0x500000, [1]⟩] }
    let t := { live with held := some ⟨2, 0x40, 2, false⟩ }
    (after (.upstreamRead 2 0x40 2) live).held = some ⟨2, 0x40, 2, true⟩ ∧ (after (.upstreamRead 2 0x40 2) live).answer = none ∧
    (after (.upstreamRead 2 0x40 2) s).held = some ⟨2, 0x40, 2, false⟩ ∧
    t.caughtUp.held = some ⟨2, 0x40, 2, false⟩ ∧
    (after .passThroughReadIssue t).port.forward = some (.passThroughRead, fresh (.read 0x40 2)) := by decide +kernel

/-- StackSlotRead: a new deferral, a repeat, no entry free; the answers of a SEALED slot. -/
theorem test_stackSlotRead : let e : DrqEntry := ⟨2, 0x200540, 2, 1, .waiting, [], 9⟩
    let s := withSlot 1 opened live
    let t := fun st => withSlot 1 { opened with state := .sealed } (withRead { e with state := st, buffer := [7, 8] } live)
    let read := Instr.upstreamRead 2 0x200540 2
    s.caughtUp.stackSlotAt 0x200540 = some 1 ∧
    (after read s).drq.entries[0]? = some (some { e with countdown := 500 }) ∧ (after read s).answer = some .defer ∧
    (after read (withRead e s)).drq.entries = (withRead { e with countdown := 500 } s).drq.entries ∧
    (after read { s with drq := { s.drq with entries := List.replicate 8 (some { e with address := 0 }) } }).answer = some .retry ∧
    (after read (t .ready)).answer = some (.data [7, 8]) ∧ (after read (t .faulted)).answer = some .abort ∧
    (after read (t .fetching)).answer = some .defer := by decide +kernel

/-- ForwardingAnswers: a read in a FREE, in an OPEN and in a SEALED slot and its FAULT; a delivery OK and FAULT with one word landed. -/
theorem test_forwardingAnswers : let t := Transfer.read 0x200540 1
    let s := atForward .passThroughRead t { live with held := some ⟨2, 0x200540, 1, true⟩, memory := [(0x200540, 5)] }
    let d := atForward .delivery (.write 0x80 [7, 8]) { live with pwb := [⟨1, 0x80, [7, 8]⟩] }
    s.caughtUp.port.attempt = some .forwarding ∧ s.caughtUp.held = some ⟨2, 0x200540, 1, true⟩ ∧
    (after (.passThroughReadAnswer .ok) s).answer = some (.data [5]) ∧
    (after (.passThroughReadAnswer .ok) (withSlot 1 opened s)).answer = some .retry ∧
    (after (.passThroughReadAnswer .ok) (withSlot 1 { opened with state := .sealed } s)).answer = some (.data [5]) ∧
    (after (.passThroughReadAnswer (.fault [])) s).answer = some .abort ∧
    d.caughtUp.pwb = [⟨1, 0x80, [7, 8]⟩] ∧ (after (.pwbDeliveryAnswer .ok) d).memory = [(0x80, 7), (0x84, 8)] ∧
    (after (.pwbDeliveryAnswer (.fault [false, true])) d).memory = [(0x84, 8)] ∧
    (after (.pwbDeliveryAnswer (.fault [false, true])) d).reports.pendingKinds = [⟨.forwardFault, 1, 0x80, some 1⟩] := by decide +kernel

/-! ### The Correlation Engine -/

/-- TransfersPresented: a delivery, a fetch, and each write of the Report Unit's client in its turn. -/
theorem test_presented : let r := fun h due stale => { live with reports := { live.reports with
      handOrder := h, producerDue := due, producer := 3, size := 16, stale := stale } }
    let none32 := List.replicate 32 false
    let out := fun (s : State) => s.settle.reports.out.map (·.write)
    live.port.client .engine = ⟨none, none⟩ ∧
    { live with pwb := [⟨1, 64, [1, 2]⟩] }.settle.port.forward = some (.delivery, fresh (.write 64 [1, 2])) ∧
    { withRead ⟨1, 128, 4, 0, .fetching, [], 5⟩ live with drq := { (withRead ⟨1, 128, 4, 0, .fetching, [], 5⟩ live).drq with
      fetchOrder := [1] } }.settle.port.drqFetch = ⟨some (fresh (.read 128 4)), none⟩ ∧
    out (r [.record aRecord] true none32) = some (.producer false) ∧
    out (r [.record aRecord] false none32) = some (.record aRecord 3) ∧
    out (r [.record aRecord] false (none32.set 2 true)) = some (.mirror 2) ∧
    out (r [.producerReset] false (none32.set 2 true)) = some (.producer true) ∧
    out (r [.slotWrite ⟨3, .results, [1]⟩] false (none32.set 2 true)) = some (.slotWrite ⟨3, .results, [1]⟩) ∧
    (r [.slotWrite ⟨3, .results, [1]⟩] false none32).settle.port.reportUnit = ⟨some (fresh (.write 100 [1])), none⟩ ∧
    out (r [] false (none32.set 31 true)) = some (.mirror 31) ∧
    (r [.producerReset, .record aRecord] false none32).settle.reports.handOrder = [.record aRecord] ∧
    (⟨.protect, true, 2 ^ 33 + 3, some 5, 70000, some (2 ^ 32 + 9)⟩ : Record).words =
      [0x0005030e, 3, 2, 70000, 9, 1, 0, 0] ∧ aRecord.words = [14, 3, 0, 1, 0, 0x80000000, 0, 0] ∧
    { opened with damaged := true, editLimit := 2 ^ 40 + 5 }.mirrorWords =
      [0x101, 9, 0x00010202, 8, 0x00030000, 0x00010001, 5, 256] := by decide +kernel

/-- ClearPieceIsMaximalRun: a whole block, the last word of a row, the next row, and the end of the table. -/
theorem test_pieces : [nextTablePiece 4 8 8 0, nextTablePiece 4 8 3 5, nextTablePiece 4 8 3 6, nextTablePiece 4 8 8 64,
    nextTablePiece 3 5 5 28] = [some (0, 16), some (5, 1), some (16, 6), none, some (28, 2)] := by decide +kernel

/-- ClearsInPieces: the first piece and the last answer, for a sweep of each pilot kind and for a slot. -/
theorem test_clears : let s := withSweep 2 noticed { live with engine := ⟨[.clear 2], none⟩ }
    let t := fun w cursor => atClient .engine (.write 0x300300 [0]) (withSweep 2 w
      { live with engine := ⟨[], some ⟨2, 5, false, .clear cursor⟩⟩ })
    let u := withSlot 1 opened { live with stackUnit := ⟨[.clear 1], none⟩ }
    let v := atClient .stackUnit (.write 0x300300 [0]) (withSlot 1 opened (stackAt (.clear 1 64) false live))
    s.caughtUp.sweepClearPiece noticed 0 = some (0, 16) ∧
    (after .clearSweep s).port.engine = ⟨some (fresh (.write 0x300300 (List.replicate 16 0))), none⟩ ∧
    (t noticed 64).caughtUp.awaits .engine (fresh (.write 0x300300 [0])) ∧
    (after (.engineTransferAnswer .ok) (t noticed 64)).engine = ⟨[], none⟩ ∧
    (after (.engineTransferAnswer .ok) (t { noticed with pilot := .captured 2 } 64)).port.engine =
      ⟨some (fresh (.write 0x300400 (List.replicate 16 0))), none⟩ ∧
    (after .clearSlot u).stackUnit = ⟨[], some ⟨.clear 1 16, false⟩⟩ ∧
    (after (.stackUnitTransferAnswer .ok) v).stackUnit = ⟨[], none⟩ := by decide +kernel

/-- ProcessScanBegins: no sweep reached; a NOTICED sweep with a stored pilot and missed scans; a capture at an odd scan; a sweep with every
active channel holed, in its window and at the end; and a sweep whose window has passed. Then, past a sweep that is not reached, the item
goes on from each of these two to the next sweep. -/
theorem test_processScan : let s := { withScan live with engine := ⟨[.process 105], none⟩ }
    let u := withPilot { ready with useCount := 1 } (withSweep 5 { noticed with start := 103 } s)
    let c := withSweep 0 running s
    (∀ p ∈ (withSweep 2 { noticed with start := 106 } s).caughtUp.liveSweeps, 105 < p.2.start) ∧
    (after .processScan (withSweep 2 { noticed with start := 106 } s)).assembler.staging = [] ∧
    u.caughtUp.sweeps.table[5]? = some (some { noticed with start := 103 }) ∧
    (after .processScan u).sweeps.table[5]? = some (some { noticed with
      start := 103, gapped := true, state := .correlating, startingSet := some [0, 2, 3], activeSet := some [0, 2, 3] }) ∧
    (after .processScan u).port.engine = ⟨some (fresh (.read 0x400010 2)), none⟩ ∧
    (after .processScan c).port.engine = ⟨some (fresh (.write 0x300100 [0xfffe1234])), none⟩ ∧
    (let h := { noticed with state := .correlating, startingSet := some [1], activeSet := some [1], lastScan := some 104 };
      (after .processScan (withSweep 5 h s)).sweep? 5 = some { h with holedSet := [1], lastScan := some 105 } ∧
      (after .processScan (withSweep 5 { h with start := 35 } s)).sweep? 5 =
        some { h with start := 35, holedSet := [1], lastScan := some 105, state := .foldWait, outcome := some .stacked } ∧
      (after .processScan (withSweep 5 { h with start := 34, lastScan := some 103 } s)).sweep? 5 =
        some { h with start := 34, lastScan := some 103, state := .foldWait, gapped := true, outcome := some .gapped } ∧
      (after .processScan (withSweep 5 { h with start := 34 } s)).assembler.staging = [] ∧
      (after .processScan (withSweep 5 { h with start := 34 } s)).stackUnit.list = [.fold 5] ∧
      (let v := after .processScan (withSweep 1 { h with tag := 6 } (withSweep 3 { noticed with start := 200, tag := 7 } u));
        v.sweep? 1 = some { h with tag := 6, holedSet := [1], lastScan := some 105 } ∧
        v.sweep? 3 = some { noticed with start := 200, tag := 7 } ∧ v.sweep? 5 = (after .processScan u).sweep? 5 ∧
        v.port.engine = ⟨some (fresh (.read 0x400010 2)), none⟩ ∧ v.assembler.staging = [scan105]) ∧
      (let v := after .processScan (withSweep 1 { h with start := 34, tag := 6 } u);
        (v.sweep? 1).map (·.state) = some .foldWait ∧ v.engine.work.map (·.entry) = some 5 ∧
        v.port.engine = ⟨some (fresh (.read 0x400010 2)), none⟩)) := by decide +kernel

/-- AccumulationGoesOn: the write-back of two lags, then the capture, the pilot reads, the next piece and the last answer; the next channel,
behind a holed one and after a mute; and the last answer of the window's end. Then a capture and a last pilot read with every active
channel holed, and the next sweep reached after them and after the last write. -/
theorem test_accumulation : let s := fun p => atClient .engine (.read 0x300080 4) (engineAt p (withSweep 0 running (withScan
      { live with memory := [(0x300080, 5), (0x300088, 0xffffffff), (0x30008c, 0xffffffff)] })))
    let t := fun p => (after (.engineTransferAnswer .ok) (s p)).port.engine.out.map (·.transfer)
    (s .capture).caughtUp.awaits .engine (fresh (.read 0x300080 4)) ∧
    t (.accumulateRead 0 [3, -7] 2 0 2) = some (.write 0x300080 (accumulatorsWords [3589, -1537])) ∧
    t .capture = some (.read 0x300100 1) ∧ t (.pilot 0 0 []) = some (.read 0x300100 1) ∧
    t (.pilot 0 1 []) = some (.read 0x300000 4) ∧ t (.accumulateWrite 0 [3] 2 0 1) = some (.read 0x300088 2) ∧
    t (.accumulateWrite 0 [3] 2 0 2) = none ∧
    (after (.engineTransferAnswer .ok) (s (.accumulateWrite 0 [3] 2 0 2))).assembler.staging = [] ∧
    (let u := fun w p => after (.engineTransferAnswer .ok) (withSweep 0 w (s p));
      let out := fun w p => (u w p).port.engine.out.map (·.transfer);
      let wide := { running with activeSet := some [0, 1, 3] };
      out wide (.accumulateWrite 0 [3] 0 0 2) = some (.read 0x3000c0 4) ∧
      (u wide (.accumulateWrite 0 [3] 0 0 2)).sweep? 0 = some { wide with holedSet := [1] } ∧
      out wide (.accumulateRead 0 [3] 2 0 2) = some (.read 0x3000c0 4) ∧
      out wide (.accumulateWrite 0 [3] 2 0 1) = some (.read 0x3000c0 4) ∧
      (u { running with start := 35 } (.accumulateWrite 0 [3] 2 7 1)).sweep? 0 =
        some { running with start := 35, lastScan := some 105, state := .foldWait, outcome := some .stacked } ∧
      (let hole := { running with activeSet := some [1] };
        let next := fun w p => after (.engineTransferAnswer .ok) (withPilot { ready with useCount := 1 }
          (withSweep 5 { noticed with start := 103 } (withSweep 0 w (s p))));
        out hole .capture = none ∧ (u hole .capture).sweep? 0 = some { hole with holedSet := [1], lastScan := some 105 } ∧
        (u hole .capture).assembler.staging = [] ∧
        (u hole (.pilot 0 1 [])).sweep? 0 = some { hole with holedSet := [1], lastScan := some 105 } ∧
        [next hole .capture, next hole (.pilot 0 1 []), next running (.accumulateWrite 0 [3] 2 0 2)].all (fun x =>
          x.port.engine.out == some (fresh (.read 0x400010 2)) && x.engine.work.map (·.entry) == some 5 &&
            x.assembler.staging == [scan105]))) := by decide +kernel

/-- EngineFaultAborts: a write-back, and a CLEAR of a sweep that has left; an answer OK to a read of one that has left; and the next sweep
reached after the FAULT. -/
theorem test_engineFault : let s := atClient .engine (.read 0x300080 4) (engineAt (.accumulateWrite 0 [3] 2 0 2)
      (withSweep 0 running (withScan live)))
    let t := atClient .engine (.read 0x300080 4) { live with engine := ⟨[], some ⟨0, 5, true, .clear 16⟩⟩ }
    s.caughtUp.awaits .engine (fresh (.read 0x300080 4)) ∧ t.caughtUp.awaits .engine (fresh (.read 0x300080 4)) ∧
    (after (.engineTransferAnswer (.fault [])) s).sweeps.table[0]? =
      some (some { running with state := .foldWait, outcome := some .faultAborted }) ∧
    (after (.engineTransferAnswer (.fault [])) s).reports.pendingKinds = [⟨.partFault, 1, 5, none⟩] ∧
    (after (.engineTransferAnswer (.fault [])) t).engine.work = none ∧
    (let u := after (.engineTransferAnswer .ok) (atClient .engine (.read 0x300080 4) { (withSweep 0 { running with state := .foldWait }
        (withScan live)) with engine := ⟨[], some ⟨0, 5, true, .process 105 (.accumulateRead 0 [3] 2 0 2)⟩⟩ });
      u.engine.work = none ∧ u.port.engine = ⟨none, none⟩ ∧ u.assembler.staging = [] ∧ u.reports.pendingKinds = []) ∧
    (let v := after (.engineTransferAnswer (.fault [])) (withPilot { ready with useCount := 1 }
        (withSweep 5 { noticed with start := 103 } s));
      v.engine.work.map (·.entry) = some 5 ∧ v.port.engine = ⟨some (fresh (.read 0x400010 2)), none⟩ ∧
      (v.sweep? 0).map (·.outcome) = some (some .faultAborted)) := by decide +kernel

/-- AbandonedAttemptsFinish: an answer discarded with a transfer waiting behind it, the same after the waiting work's sweep has left, for a
CLEAR and for a PROCESS that goes on with the next sweep, and a line reset's attempt that ends. -/
theorem test_abandoned : let s := { atClient .engine (.read 0 1) live with port := { (atClient .engine (.read 0 1) live).port with
      engine := ⟨some ⟨.read 0 1, 3, true⟩, some (.read 64 2)⟩ } }
    let t := { live with port := { live.port with abandoned := some (.write 64 [1, 2]) } }
    s.caughtUp.port.current = some .engine ∧
    (after (.engineTransferAnswer .ok) s).port.engine = ⟨some (fresh (.read 64 2)), none⟩ ∧
    (let w := ask 7 [5] (withSweep 0 noticed { s with engine := ⟨[.clear 0], none⟩ });
      let took := after .clearSweep { w with commands := live.commands, port := { s.port with engine := ⟨s.port.engine.out, none⟩ } };
      let left := after .cancelSweep { took with commands := w.commands };
      took.port.engine.next.isSome ∧ left.port.engine.next = none ∧
      left.engine.work.map (·.left) = some true ∧
      (after (.engineTransferAnswer .ok) left).engine.work = none ∧
      (after (.engineTransferAnswer .ok) left).port.engine = ⟨none, none⟩) ∧
    (let v := after (.engineTransferAnswer .ok) (withPilot { ready with useCount := 1 } (withSweep 5 { noticed with start := 103 }
        (withScan { s with
          engine := ⟨[], some ⟨0, 5, true, .process 105 .capture⟩⟩
          port := { s.port with engine := ⟨s.port.engine.out, none⟩ } })));
      v.engine.work.map (·.entry) = some 5 ∧ v.port.engine = ⟨some (fresh (.read 0x400010 2)), none⟩) ∧
    t.caughtUp.port.abandoned = some (.write 64 [1, 2]) ∧
    (after (.abandonedAttemptFinished [false, true]) t).memory = [(68, 2)] ∧
    (after (.abandonedAttemptFinished [false, true]) t).port.abandoned = none := by decide +kernel

/-! ### The Stack Unit and the channels -/

/-- RecordOnlyFoldAndItsEnd: a GAPPED sweep, the last of a drain, that brings its slot to COMPLETE. -/
theorem test_recordOnlyFold : let s := withSweep 3 { waits with outcome := some .gapped } (withSlot 1 opened
      { live with stackUnit := ⟨[.fold 3], none⟩, mode := .draining, requestedMode := .idle })
    s.caughtUp.sweep? 3 = some { waits with outcome := some .gapped } ∧
    (after .fold s).directory[1]? = some { opened with
      state := .complete, contributors := opened.contributors ++ [⟨5, .gapped, 0, 0, 0, 0⟩] } ∧
    (after .fold s).stackUnit = ⟨[.seal 1], none⟩ ∧ (after .fold s).mode = .idle ∧
    (after .fold s).reports.pendingKinds = [⟨.sweepEnded, 1, 5, none⟩, ⟨.modeChanged, 1, 3, none⟩] := by decide +kernel

/-- StackingFold: channel 0 muted, channel 1 holed, channel 2 read; the end of a fold with channels 1 and 3 stacked, with no channel left
and with a muted and a holed one left. -/
theorem test_stackingFold : let s := withSweep 3 waits (withSlot 1 opened { live with stackUnit := ⟨[.fold 3], none⟩ })
    s.caughtUp.sweep? 3 = some waits ∧
    (after .fold s).stackUnit.work = some ⟨.fold ⟨3, 1, 2, [3], [], .scratchRead 0 8, [], 0, 1, 1⟩, false⟩ ∧
    (after .fold s).port.stackUnit = ⟨some (fresh (.read 0x300500 16)), none⟩ ∧
    (State.foldFrom waits true [] { folding (.scratchRead 0 0) [] with stacked := [1, 3] } s).directory[1]? = some { opened with
      state := .complete
      contributors := opened.contributors ++ [⟨5, .stacked, 2, 2, 1, 4⟩]
      foldCounts := [0, 6, 0, 1] } ∧
    (State.foldFrom waits true [0, 1] { folding (.scratchRead 0 0) [] with stacked := [1, 3] } s).directory[1]? = some { opened with
      state := .complete
      contributors := opened.contributors ++ [⟨5, .stacked, 2, 2, 2, 5⟩]
      foldCounts := [0, 6, 0, 1] } := by decide +kernel

/-- FoldGoesOn: a piece of scratch, the two verdicts, the sums' write, the last answer of a channel, and the next piece of its sums. -/
theorem test_foldGoesOn : let s := fun limit ph values => atClient .stackUnit (.read 0x300500 8) (withSweep 3
      { waits with state := .folding } (withSlot 1 { opened with editLimit := limit } (stackAt (.fold (folding ph values)) false
        { live with memory := [(0x300500, 5), (0x300508, 7), (0x30050c, 0xffffffff)] })))
    let work := fun x => (after (.stackUnitTransferAnswer .ok) x).stackUnit.work
    let out := fun x => (after (.stackUnitTransferAnswer .ok) x).port.stackUnit.out.map (·.transfer)
    (s 0 (.scratchRead 0 4) []).caughtUp.awaits .stackUnit (fresh (.read 0x300500 8)) ∧
    out (s 1000 (.scratchRead 0 4) []) = some (.read 0x300520 8) ∧
    out (s 0 (.scratchRead 4 4) [1, 2, 3, 4]) = some (.read 0x200a00 16) ∧
    out (s 1000 (.scratchRead 4 4) [1, 2, 3, 4]) = some (.read 0x300540 16) ∧
    (work (s 1000 (.scratchRead 4 4) [1, 2, 3, 4])).isSome ∧
    out (s 0 (.sumsRead 4 4) [1, 2, 3, 4, 5, 6, 7, 8]) =
      some (.write 0x200a20 (accumulatorsWords [10, BitVec.ofInt 64 (-4294967283), 7, 8])) ∧
    out (s 0 (.sumsWrite 4 4) [1, 2, 3, 4, 5, 6, 7, 8]) = some (.read 0x300540 16) ∧
    out (s 0 (.sumsWrite 0 4) [1, 2, 3, 4, 5, 6, 7, 8]) = some (.read 0x200a20 8) := by decide +kernel

/-- SealInOrder: the first write, a write in the middle, and the end, which fetches a waiting read. -/
theorem test_seal : let s := withSlot 1 { opened with state := .complete } { live with stackUnit := ⟨[.seal 1], none⟩ }
    let t := fun j => atClient .stackUnit (.write 0x200540 [1]) (withSlot 1 { opened with state := .sealing } (withRead
      ⟨1, 0x200540, 1, 1, .waiting, [], 7⟩ (stackAt (.seal 1 j) false live)))
    (after .seal s).port.stackUnit = ⟨some (fresh (.write 0x200940 [0, 5, 0, 0])), none⟩ ∧
    (after .seal s).directory[1]? = some { opened with state := .sealing } ∧
    opened.headerWords.take 16 = [4, 9, 0x00010202, 8, 0x00030000, 0x00010001, 1000, 0, 1, 0, 0, 0, 0, 0, 0, 0] ∧
    (opened.headerWords.drop 16).take 5 = [0x00010004, 0x00010001, 0x00010001, 0, 0] ∧
    (t 16).caughtUp.awaits .stackUnit (fresh (.write 0x200540 [1])) ∧
    (after (.stackUnitTransferAnswer .ok) (t 16)).port.stackUnit.out.map (fun o => o.transfer.range.base) = some 0x200540 ∧
    (after (.stackUnitTransferAnswer .ok) (t 17)).directory[1]? = some { opened with state := .sealed } ∧
    (after (.stackUnitTransferAnswer .ok) (t 17)).drq.entries[1]? = some (some ⟨1, 0x200540, 1, 1, .fetching, [], 7⟩) ∧
    (after (.stackUnitTransferAnswer .ok) (t 17)).reports.pendingKinds = [⟨.stackSealed, 1, 9, none⟩] := by decide +kernel

/-- StackUnitFault: a CLEAR, a scratch read, a sums write after an earlier fault, and seal writes: the first FAULT, a later one, and one of
the last write. -/
theorem test_stackUnitFault : let s := fun j faulted d => atClient .stackUnit (.read 0 1) (withSweep 3 { waits with state := .folding }
      (withSlot 1 d (stackAt j faulted live)))
    let t := fun x => after (.stackUnitTransferAnswer (.fault [])) x
    (s (.clear 1 16) false opened).caughtUp.awaits .stackUnit (fresh (.read 0 1)) ∧
    (t (s (.clear 1 16) false opened)).directory[1]? = some { opened with damaged := true } ∧
    (t (s (.clear 1 16) false opened)).reports.pendingKinds = [⟨.partFault, 1, 9, none⟩] ∧
    (t (s (.fold (folding (.scratchRead 0 4) [])) false opened)).stackUnit.work.isSome ∧
    (t (s (.fold (folding (.sumsWrite 0 4) [])) true { opened with damaged := true })).reports.pendingKinds = [] ∧
    (t (s (.seal 1 4) false { opened with state := .sealing })).directory[1]? =
      some { opened with state := .sealing, headerFault := true } ∧
    (t (s (.seal 1 4) false { opened with state := .sealing })).reports.pendingKinds = [⟨.partFault, 1, 9, none⟩] ∧
    (let v := t (s (.seal 1 4) true { opened with state := .sealing, headerFault := true });
      v.reports.pendingKinds = [] ∧ v.stackUnit.work = some ⟨.seal 1 5, true⟩ ∧ v.port.stackUnit.out.isSome) ∧
    (let v := t (s (.seal 1 17) true { opened with state := .sealing, headerFault := true });
      v.reports.pendingKinds = [⟨.stackSealed, 1, 9, none⟩] ∧
      v.directory[1]? = some { opened with state := .sealed, headerFault := true }) := by decide +kernel

/-- PeakVerdict: at the limit, above it, the most negative value, and no limit. -/
theorem test_verdict : [verdict 7 [-7, 3], verdict 6 [-7, 3], verdict (2 ^ 63) [BitVec.ofNat 64 (2 ^ 63)], verdict 0 [9]] =
    [.accepted, .rejected, .accepted, .accepted] := by decide +kernel

/-- EditTest: each row of R64's table at its bounds, and a frozen score. -/
theorem test_editTest : [(43, Condition.good, Verdict.rejected), (44, .good, .rejected), (48, .suspect, .accepted),
      (155, .suspect, .rejected), (156, .suspect, .rejected), (0, .good, .accepted), (254, .suspect, .rejected),
      (200, .muted, .rejected)].map (fun x => (State.applyVerdict { live with channels := [⟨x.1, x.2.1⟩] } 0 5 x.2.2).channel 0) =
    [⟨47, .good⟩, ⟨48, .suspect⟩, ⟨47, .good⟩, ⟨159, .suspect⟩, ⟨160, .muted⟩, ⟨0, .good⟩, ⟨255, .muted⟩, ⟨200, .muted⟩] :=
  by decide +kernel

/-! ### Deferred reads, pilots and reports -/

/-- FetchAnswered: OK, FAULT, and the entry freed meanwhile. -/
theorem test_fetch : let e : DrqEntry := ⟨1, 128, 2, 0, .fetching, [], 5⟩
    let s := fun x => { atClient .drqFetch (.read 128 2) (withRead e { live with memory := [(132, 7)] }) with
      port := { (atClient .drqFetch (.read 128 2) live).port with fetchFor := x } }
    (s (some 1)).caughtUp.awaits .drqFetch (fresh (.read 128 2)) ∧ (s (some 1)).caughtUp.drq.entries[1]? = some (some e) ∧
    (after (.drqFetchAnswer .ok) (s (some 1))).drq.entries[1]? =
      some (some { e with state := .ready, buffer := [0, 7], countdown := 500 }) ∧
    (after (.drqFetchAnswer (.fault [])) (s (some 1))).drq.entries[1]? = some (some { e with state := .faulted, countdown := 500 }) ∧
    (after (.drqFetchAnswer .ok) (s none)).drq.entries[1]? = some (some e) := by decide +kernel

/-- PilotCheck: the start; the last read with a sum that agrees and one that differs; one more read; a FAULT. -/
theorem test_pilotCheck : let p : PilotEntry := ⟨.checking, 0x400038, 65, 16, 0⟩
    let s := withPilot p (during 9 [3] (.definePilot 3 0 false 9 9) live)
    let t := fun next sum => atClient .pilotUnit (.read 0x400080 2) (withPilot { p with checksum := sum } (during 9 [3]
      (.definePilot 3 0 true next 10) { live with memory := [(0x400080, 0x0002ffff), (0x400084, 5)] }))
    let check := fun x next sum => ((after (.pilotCheckReadAnswer x) (t next sum)).pilotEntry 3).state
    s.caughtUp.commands.progress = some (.definePilot 3 0 false 9 9) ∧
    (after .pilotCheckStart s).port.pilotUnit = ⟨some (fresh (.read 0x400038 2)), none⟩ ∧
    (t 33 16).caughtUp.awaits .pilotUnit (fresh (.read 0x400080 2)) ∧
    [check .ok 33 16, check .ok 33 17, check .ok 32 17, check (.fault []) 32 17] = [.ready, .faulted, .checking, .faulted] ∧
    (after (.pilotCheckReadAnswer .ok) (t 32 17)).port.pilotUnit = ⟨some (fresh (.read 0x4000b8 1)), none⟩ := by decide +kernel

/-- ReportSubmitted: room; room with kinds pending; a kind pending already at the cap; a kind that joins between two. -/
theorem test_submit : let r := fun (occupied : Nat) kinds => { live with reports := { live.reports with
      size := 16, producer := occupied, pendingKinds := kinds } }
    let k : PendingKind := ⟨.malformed, 65535, 4, some 2⟩
    let submitted := fun (s : State) kind => ((s.submit kind 5 none 1).reports.handOrder.length,
      (s.submit kind 5 none 1).reports.pendingKinds)
    submitted (r 14 []) .protect = (1, []) ∧ submitted (r 13 [k]) .protect = (2, []) ∧ submitted (r 15 [k]) .malformed = (0, [k]) ∧
    submitted (r 15 [⟨.scanGap, 2, 4, none⟩, k]) .protect = (0, [⟨.scanGap, 2, 4, none⟩, ⟨.protect, 1, 5, none⟩, k]) := by
  decide +kernel

/-- ReportWritesAnswered: a record OK and FAULT, a producer write OK and FAULT, a mirror write, and a discarded answer. -/
theorem test_reportWrites : let ok := fun (i : DramAnswer → Instr) w => (after (i .ok) (writing w false)).reports
    let bad := fun (i : DramAnswer → Instr) w discarded => (after (i (.fault [])) (writing w discarded)).reports.recordQueue.length
    (writing (.mirror 4) false).caughtUp.awaits .reportUnit (fresh (.write 0x8060 [1])) ∧
    (ok .reportWriteAnswer (.record aRecord 3)).producer = 4 ∧ bad .reportWriteAnswer (.record aRecord 3) false = 1 ∧
    (after (.reportWriteAnswer (.fault [])) (writing (.record aRecord 3) false)).reports.pendingKinds = [⟨.partFault, 1, 3, none⟩] ∧
    (ok .producerWriteAnswer (.producer false)).producerOk = true ∧ bad .producerWriteAnswer (.producer false) false = 1 ∧
    bad .mirrorWriteAnswer (.mirror 4) false = 1 ∧ (ok .mirrorWriteAnswer (.mirror 4)).out = none ∧
    bad .producerWriteAnswer (.producer true) true = 0 := by decide +kernel

/-- AttnLine: disabled, the indexes apart, a kind pending, and neither. A SET_REPORTS that sets up a ring and enables attention while a kind
is pending raises the line, which stays until the kind's record is written and consumed; with nothing pending it does not rise. A consumer
write that reaches the producer index with a kind pending leaves the line asserted, one with nothing pending lets it fall. -/
theorem test_attn : let r := fun e p k => State.attn { live with reports := { live.reports with
      enable := e, producer := p, pendingKinds := k } }
    let set := fun k ops => after .setReports (ask 20 ops { live with reports := { live.reports with pendingKinds := k } })
    let full := fun k => { live with reports := { live.reports with
      size := 16, enable := true, producer := 15, consumer := 0, pendingKinds := k } }
    let x : Record := { aRecord with coalesced := true }
    let out := { writing (.record x 3) false with reports := { (writing (.record x 3) false).reports with enable := true, consumer := 3 } }
    [r false 3 [], r true 3 [], r true 0 [⟨.protect, 1, 0, none⟩], r true 0 []] = [false, true, true, false] ∧
    (set [⟨.protect, 1, 0, none⟩] [16, 1]).attn = true ∧ (set [⟨.protect, 1, 0, none⟩] [16, 1]).reports.pendingKinds = [] ∧
    (set [⟨.protect, 1, 0, none⟩] [0, 1]).attn = true ∧ (set [] [16, 1]).attn = false ∧
    (set [⟨.protect, 1, 0, none⟩] [16, 0]).attn = false ∧
    (after (.consumerIndexWrite 2 0x140 [15]) (full [⟨.protect, 1, 0, none⟩])).attn = true ∧
    (after (.consumerIndexWrite 2 0x140 [15]) (full [])).attn = false ∧
    out.attn = true ∧ (after (.reportWriteAnswer .ok) out).attn = true ∧ (after (.reportWriteAnswer (.fault [])) out).attn = true ∧
    (after (.consumerIndexWrite 2 0x140 [4]) (after (.reportWriteAnswer .ok) out)).attn = false := by decide +kernel

/-- ReportsSet: out of range; a ring set up over a queued record; no ring. -/
theorem test_setReports : let s := fun ops => ask 20 ops { live with
      reports := { live.reports with
        size := 16, producer := 3, handOrder := [.record aRecord], stale := List.replicate 32 true, out := some ⟨.mirror 0, false⟩ }
      port := (atClient .reportUnit (.write 0 [1]) live).port }
    (s [16, 1]).settle.heads .setReports (head 20 [16, 1]) ∧ (after .setReports (s [17, 1])).reports.size = 16 ∧
    (after .setReports (s [1024, 1])).reports.size = 1024 ∧ (after .setReports (s [1024, 1])).reports.pendingKinds = [] ∧
    (after .setReports (s [0, 0])).reports.pendingKinds = [⟨.protect, 1, 3, none⟩] := by decide +kernel

/-! ### The Command Unit -/

/-- CommandEnds: the BUSY write handed already, and still waiting. -/
theorem test_commandEnds : let s := fun waits => { ask 4 [] live with commands := { (ask 4 [] live).commands with busyWaits := waits } }
    (s []).commands.queue = [head 4 []] ∧
    (State.endCommand (s [1]) .ok (some [1])).reports.handOrder =
      [.slotWrite ⟨0, .results, [1]⟩, .slotWrite ⟨0, .final, [1]⟩] ∧
    (State.endCommand (s [0]) .late).commands.slots[0]? = some { CommandSlot.atReset with ending := some ⟨.late, none⟩ } := by
  decide +kernel

/-- CommandSlotWrites: the BUSY write of an ended command; the answers OK and FAULT of a final write. -/
theorem test_slotWrites : let c : CommandSlot := ⟨[0x00070005], true, some ⟨.ok, some [1]⟩, false⟩
    let s := { live with commands := { live.commands with busyWaits := [2], slots := live.commands.slots.set 2 c } }
    let t := fun role => { writing (.slotWrite ⟨2, role, [1]⟩) false with
      commands := { live.commands with slots := live.commands.slots.set 2 { c with ending := none } } }
    (∀ w ∈ s.caughtUp.pwb, w.range.meets ⟨s.caughtUp.controlBase + 64, 32⟩ = false) ∧
    (after .busyWriteHanded s).reports.handOrder.length = 2 ∧ (after .busyWriteHanded s).commands.busyWaits = [] ∧
    (t .final).caughtUp.awaits .reportUnit (fresh (.write 0x8060 [1])) ∧
    (after (.commandSlotWriteAnswer .ok) (t .busy)).commands.slots[2]? = some { c with ending := none } ∧
    (after (.commandSlotWriteAnswer (.fault [])) (t .final)).commands.slots[2]? =
      some { c with ending := none, busy := false, faulted := true } := by decide +kernel

/-- The final status with which a step ends the command at the head of the queue. -/
def status (i : Instr) (s : State) : Option (BitVec 32) := (after i s).reports.out.bind (fun o => match o.write with
  | .slotWrite w => if w.role = .final then w.words[0]?.map (fun w => w &&& 0xff) else none
  | _ => none)

/-- BadKindAndMode: kind 10 names no command; SET_GEOMETRY in ACQUIRE, NOTICE_SWEEP and CANCEL_SWEEP in IDLE, OPEN in DRAINING. -/
theorem test_badKindAndMode : (ask 10 [] live).settle.commands.queue.head? = some (head 10 []) ∧
    (head 10 []).command = none ∧ status .badKindCommand (ask 10 [] live) = some 3 ∧ status .setGeometry (ask 1 [] live) = some 5 ∧
    status .setWindow (ask 2 [] live) = some 5 ∧ status .noticeSweep (ask 6 [] still) = some 5 ∧
    status .cancelSweep (ask 7 [] still) = some 5 ∧
    status .openSourcePoint (ask 15 [] { live with mode := .draining }) = some 5 := by decide +kernel

/-- SettingsCommands: the bounds of each operand, and a window that is on. -/
theorem test_settings : (ask 1 [3072, 4096, 32768] quiet).settle.heads .setGeometry (head 1 [3072, 4096, 32768]) ∧
    [ask 1 [3072, 4096, 32768] quiet, ask 1 [1, 1, 64] quiet, ask 1 [1, 1, 63] quiet, ask 1 [1, 1, 64] still].map
      (status .setGeometry) = [some 1, some 1, some 4, some 6] ∧
    (after .setGeometry (ask 1 [1, 1, 64] quiet)).geometry = ⟨1, 1, 64⟩ ∧
    [[1, 65535], [0, 5], [5, 65536]].map (fun o => status .setTimers (ask 3 o live)) = [some 1, some 4, some 4] ∧
    [[255, 1], [256, 1], [1, 0]].map (fun o => status .setArbiter (ask 18 o live)) = [some 1, some 4, some 4] ∧
    (after .setArbiter (ask 18 [255, 1] live)).port.forwardSlice = 255 := by decide +kernel

/-- WindowSet: each check, a change made at once, one that waits for a buffered write, and its WINDOW_CHANGE. -/
theorem test_setWindow : let off := { still with windows := { still.windows with raw := none } }
    let raw : List Word := [1, 0x500000, 0, 16, 1]
    let held := { ask 2 raw off with pwb := [⟨1, 0x500010, [4]⟩] }
    (ask 2 raw off).settle.heads .setWindow (head 2 raw) ∧ (head 2 raw).windowSetting = some (.raw (some ⟨0x500000, 16, .tap⟩)) ∧
    status .setWindow (ask 2 raw off) = some 1 ∧ status .setWindow (ask 2 [1, 0x500020, 0, 16, 1] off) = some 4 ∧
    status .setWindow (ask 2 raw quiet) = some 18 ∧ status .setWindow (ask 2 [2, 0x600000, 0, 1] (withSlot 1 opened off)) = some 6 ∧
    status .setWindow (ask 2 [4, 0x600000, 0, 0x6fffff, 0] (withPilot ready off)) = some 6 ∧
    status .setWindow (ask 2 [1, 0xffffffc0, 0xff, 16, 1] off) = some 14 ∧
    status .setWindow (ask 2 [1, 0x200000, 0, 16, 1] off) = some 13 ∧
    (after .setWindow held).commands.progress = some (.setWindow (.raw (some ⟨0x500000, 16, .tap⟩))) ∧
    (after .windowChange (during 2 raw (.setWindow (.raw (some ⟨0x500000, 16, .tap⟩))) off)).windows.raw =
      some ⟨0x500000, 16, .tap⟩ := by decide +kernel

/-- WindowSet: the settings of each selector, at the bounds of each operand; the bytes of each window for 4 channels, 8 lags and L 64. -/
theorem test_windowSettings : let w := fun ops => (head 2 ops).windowSetting
    w [0, 0, 0, 0] = none ∧ w [5, 0, 0, 0] = none ∧ w [1, 7, 0, 0, 9] = some (.raw none) ∧
    [w [1, 64, 0, 15, 1], w [1, 64, 0, 4097, 1], w [1, 65, 0, 16, 1], w [1, 0, 256, 16, 1], w [1, 64, 0, 16, 0], w [1, 64, 0, 16, 3]] =
      List.replicate 6 none ∧
    w [1, 0xffffffc0, 255, 4096, 2] = some (.raw (some ⟨0xffffffffc0, 4096, .absorb⟩)) ∧
    w [2, 7, 0, 0] = some (.stack none) ∧ w [2, 64, 0, 33] = none ∧ w [2, 64, 0, 32] = some (.stack (some ⟨64, 32⟩)) ∧
    w [2, 64, 0, 1] = some (.stack (some ⟨64, 1⟩)) ∧
    w [3, 7, 0, 0] = some (.scratch none) ∧ w [3, 64, 0, 23] = none ∧ w [3, 64, 0, 24] = some (.scratch (some ⟨64⟩)) ∧
    w [4, 128, 0, 127, 0] = some (.pilot none) ∧ w [4, 64, 0, 127, 0] = some (.pilot (some ⟨64, 127⟩)) ∧ w [4, 64, 0, 128, 0] = none ∧
    w [4, 64, 0, 0xffffffff, 256] = none ∧
    [WindowSetting.raw (some ⟨64, 16, .tap⟩), .stack (some ⟨64, 2⟩), .scratch (some ⟨64⟩), .pilot (some ⟨64, 127⟩), .pilot none].map
      (fun x => (x.range live.geometry).map (·.size)) = [some 1024, some 2688, some 9216, some 64, none] := by decide +kernel

/-- The result words with which a step ends the command at the head of the queue. -/
def results (i : Instr) (s : State) : Option (List Word) := (after i s).reports.out.bind (fun o => match o.write with
  | .slotWrite w => if w.role = .results then some w.words else none
  | _ => none)

/-- ReadCommands and ReadChannel. -/
theorem test_reads : let g := { noticed with outcome := some .gapped, gapped := true, lastScan := some (2 ^ 33 + 1), activeSet := some [1] }
    let c := { live with channels := live.channels.set 3 ⟨7, .suspect⟩ }
    (ask 8 [5] (withSweep 3 g live)).settle.findTag 5 = some (3, g) ∧
    results .readState (ask 4 [] (withSweep 3 g (withSlot 1 opened live))) = some [0x202, 0, 0x80000000, 1, 1, 0] ∧
    results .readSweep (ask 8 [5] (withSweep 3 g live)) = some [0x10301, 1, 2, 1, 0, 0] ∧
    status .readSweep (ask 8 [6] (withSweep 3 g live)) = some 9 ∧ (ask 14 [3] c).settle.heads .readChannel (head 14 [3]) ∧
    results .readChannel (ask 14 [3] c) = some [7, 1, 0, 0, 0, 0] ∧ status .readChannel (ask 14 [4] c) = some 4 := by decide +kernel

/-- EngineReset: the first event frees an OPEN slot with its waiting read, keeps a SEALED one; then the two later events. -/
theorem test_engineReset : let s := ask 5 [] (withSlot 2 { opened with state := .sealed } (withSlot 1 opened (withSweep 3 noticed
      (withRead ⟨1, 8, 1, 1, .waiting, [], 7⟩ live))))
    let t := fun done => during 5 [] (.engineReset 1 done) { withScan live with engine := ⟨[.process 105], none⟩ }
    s.settle.heads .engineReset (head 5 []) ∧
    (after .engineReset s).directory.map (·.state) = [.free, .free, .sealed] ++ List.replicate 29 .free ∧
    (after .engineReset s).liveSweeps = [] ∧ (after .engineReset s).commands.progress = some (.engineReset 1 false) ∧
    (after .engineReset s).reports.pendingKinds.map (·.kind) = [.stackDiscarded, .readDiscarded] ∧
    (after .engineResetScanAssembler (t false)).assembler = ⟨[], none, none⟩ ∧
    (after .engineResetScanAssembler (t false)).engine.list = [] ∧ (after .engineResetDone (t true)).mode = .idle ∧
    (after .engineResetDone (t true)).reports.pendingKinds.map (·.kind) = [.modeChanged, .engineResetDone] := by decide +kernel

/-! ### Sweeps, pilots, channels, stacks and modes -/

/-- NoticeSweep: the status of each check in its order, and an admission. -/
theorem test_notice : let s := withPilot ready (withSlot 1 { opened with notices := 1 } live)
    let notice := fun ops (x : State) => status .noticeSweep (ask 6 ops x)
    let ok : List Word := [6, 9, 100, 0, 1, 3]
    (ask 6 ok s).settle.heads .noticeSweep (head 6 ok) ∧
    notice [0, 9, 100, 0, 1, 3] s = some 4 ∧ notice [6, 9, 100, 0, 1, 16] s = some 4 ∧
    notice [6, 9, 100, 0, 2, 0x00400004] s = some 4 ∧
    notice [6, 9, 100, 0x10000, 1, 3] s = some 4 ∧ notice ok (withSweep 0 { noticed with tag := 6 } s) = some 8 ∧
    notice [6, 8, 100, 0, 1, 3] s = some 9 ∧ notice ok (withSlot 1 { opened with state := .sealed } s) = some 6 ∧
    notice ok (withSlot 1 opened s) = some 7 ∧ notice ok (withPilot { ready with state := .faulted } s) = some 18 ∧
    notice ok { s with assembler := ⟨[], some 100, none⟩ } = some 10 ∧
    notice ok { s with sweeps := { s.sweeps with table := List.replicate 24 (some noticed) } } = some 7 ∧ notice ok s = some 1 ∧
    notice [6, 9, 100, 0, 2, 0x00400003] s = some 1 ∧
    (after .noticeSweep (ask 6 ok s)).sweeps = ⟨(List.replicate 24 none).set 0 (some { noticed with tag := 6 }), some 2000, 2000⟩ ∧
    (after .noticeSweep (ask 6 ok s)).engine.list = [.clear 0] ∧
    ((after .noticeSweep (ask 6 ok s)).pilotEntry 3).useCount = 1 ∧ ((after .noticeSweep (ask 6 ok s)).slotEntry 1).notices = 2 := by
  decide +kernel

/-- SweepLeavesCorrelation: a cancelled sweep whose CLEAR is on the list, the last one; a tag not held; a sweep that has left. -/
theorem test_cancel : let s := fun (w : Sweep) tag => ask 7 [tag] (withPilot { ready with useCount := 1 } (withSweep 3 w
      { live with engine := ⟨[.clear 3, .clear 2], none⟩, sweeps := { live.sweeps with stallTimer := some 9 } }))
    (s noticed 5).settle.findTag 5 = some (3, noticed) ∧
    (after .cancelSweep (s noticed 5)).sweep? 3 = some { noticed with outcome := some .cancelled, state := .foldWait } ∧
    (after .cancelSweep (s noticed 5)).engine.list = [.clear 2] ∧ (after .cancelSweep (s noticed 5)).sweeps.stallTimer = none ∧
    ((after .cancelSweep (s noticed 5)).pilotEntry 3).useCount = 0 ∧ (after .cancelSweep (s noticed 5)).stackUnit.list = [.fold 3] ∧
    status .cancelSweep (s noticed 6) = some 9 ∧ status .cancelSweep (s { noticed with state := .folding } 5) = some 11 := by
  decide +kernel

/-- PilotCommands: each check, an extent that ends at the window's limit and one word further, and a removal. -/
theorem test_pilotCommands : let d := fun (ops : List Word) s => status .definePilot (ask 9 ops s)
    let s := withPilot { ready with useCount := 1 } live
    (ask 9 [4, 0x400f80, 0, 64, 77] s).settle.heads .definePilot (head 9 [4, 0x400f80, 0, 64, 77]) ∧
    d [16, 0x400f80, 0, 64, 77] s = some 4 ∧ d [4, 0x400f81, 0, 64, 77] s = some 4 ∧ d [4, 0x400f80, 0, 65, 77] s = some 4 ∧
    d [3, 0x400f80, 0, 64, 77] s = some 12 ∧ d [4, 0x400f84, 0, 64, 77] s = some 15 ∧
    (after .definePilot (ask 9 [4, 0x400f80, 0, 64, 77] s)).pilotEntry 4 = ⟨.checking, 0x400f80, 64, 77, 0⟩ ∧
    (after .definePilot (ask 9 [4, 0x400f80, 0, 64, 77] s)).commands.progress = some (.definePilot 4 0 false 0 0) ∧
    status .removePilot (ask 11 [16] s) = some 4 ∧ status .removePilot (ask 11 [3] s) = some 12 ∧
    ((after .removePilot (ask 11 [3] (withPilot ready live))).pilotEntry 3).state = .empty := by decide +kernel

/-- ChannelCommands: a mute that reaches a sweep, of a muted channel, of channel C; an unmute of each condition. -/
theorem test_channelCommands : let s := fun k c => ask k [2] (withSweep 3 running
      { live with channels := live.channels.set 2 ⟨50, c⟩ })
    (s 12 .suspect).settle.heads .muteChannel (head 12 [2]) ∧
    (after .muteChannel (s 12 .suspect)).channel 2 = ⟨50, .muted⟩ ∧
    ((after .muteChannel (s 12 .suspect)).sweep? 3).map (·.activeSet) = some (some [0]) ∧
    (after .muteChannel (s 12 .muted)).reports.pendingKinds = [] ∧ status .muteChannel (ask 12 [4] live) = some 4 ∧
    (after .unmuteChannel (s 13 .muted)).channel 2 = ⟨0, .good⟩ ∧
    (after .unmuteChannel (s 13 .muted)).reports.pendingKinds = [⟨.channelClear, 1, 2, none⟩] ∧
    (after .unmuteChannel (s 13 .good)).reports.pendingKinds = [] ∧ status .unmuteChannel (ask 13 [4] live) = some 4 := by
  decide +kernel

/-- SourcePointOpened: each check, a claim at once, a claim that waits, and SLOT_CLAIM. -/
theorem test_open : let ops : List Word := [12, 0x00080020, 0x00030000, 0x00020001, 7, 0]
    let s := withSlot 0 opened live
    let d : DirEntry := ⟨.opened, 12, 32, 8, 0, 3, 1, 2, 7, 0, false, false, [], [0, 0, 0, 0]⟩
    let held := { ask 15 ops s with pwb := [⟨1, 0x200540, [3]⟩] }
    (ask 15 ops s).settle.heads .openSourcePoint (head 15 ops) ∧
    (after .openSourcePoint (ask 15 ops s)).slotEntry 1 = d ∧ (after .openSourcePoint (ask 15 ops s)).stackUnit.list = [.clear 1] ∧
    (after .openSourcePoint held).commands.progress = some (.openSourcePoint 1) ∧
    (after .slotClaim (during 15 ops (.openSourcePoint 1) s)).slotEntry 1 = d ∧
    status .openSourcePoint (ask 15 [12, 0x00080021, 0, 0, 0, 0] s) = some 4 ∧
    status .openSourcePoint (ask 15 [12, 0x00090020, 0, 0, 0, 0] s) = some 4 ∧
    status .openSourcePoint (ask 15 [12, 0x00080020, 4, 0, 0, 0] s) = some 4 ∧
    status .openSourcePoint (ask 15 [9, 0x00080020, 0, 0, 0, 0] s) = some 8 ∧
    status .openSourcePoint (ask 15 ops (withSlot 1 { opened with sourcePoint := 8 } s)) = some 7 := by decide +kernel

/-- SourcePointClosedAndReleased: an OPEN and a SEALED slot for each command, and a source point not held. -/
theorem test_closeAndRelease : let s := fun k sp st => ask k [sp] (withSlot 1 { opened with state := st, notices := 1 } (withRead
      ⟨1, 8, 1, 1, .ready, [], 7⟩ live))
    (s 16 9 .opened).settle.findSourcePoint 9 = some 1 ∧
    (after .closeSourcePoint (s 16 9 .opened)).directory[1]? = some { opened with state := .complete, notices := 1, foldTarget := 1 } ∧
    status .closeSourcePoint (s 16 9 .sealed) = some 6 ∧ status .closeSourcePoint (s 16 8 .opened) = some 9 ∧
    (after .releaseStack (s 17 9 .sealed)).directory[1]? = some DirEntry.free ∧
    (after .releaseStack (s 17 9 .sealed)).drq.entries[1]? = some none ∧ status .releaseStack (s 17 9 .opened) = some 6 ∧
    status .releaseStack (s 17 0 .sealed) = some 9 := by decide +kernel

/-- ModeSet: every mode and target, with an abort, without the windows, and out of range. -/
theorem test_setMode : let s := fun t a x => after .setMode (ask 19 [t, a] x)
    let drain := { live with mode := .draining, requestedMode := .idle }
    (ask 19 [2, 0] still).settle.heads .setMode (head 19 [2, 0]) ∧
    status .setMode (ask 19 [3, 0] live) = some 4 ∧ status .setMode (ask 19 [1, 2] live) = some 4 ∧
    status .setMode (ask 19 [2, 0] quiet) = some 18 ∧ (s 2 0 still).mode = .acquire ∧
    (s 1 1 still) = after .setMode (ask 19 [1, 0] still) ∧
    (s 1 0 live).mode = .idle ∧ (s 1 0 (withSweep 3 noticed live)).mode = .draining ∧
    ((s 1 1 (withSweep 3 noticed live)).sweep? 3).map (·.outcome) = some (some .modeAborted) ∧
    ((s 1 0 (withSweep 3 noticed live)).sweep? 3).map (·.outcome) = some none ∧
    (s 2 1 (withSweep 3 noticed drain)).mode = .acquire ∧ (s 1 1 (withSweep 3 noticed drain)).mode = .draining ∧
    ((s 1 1 (withSweep 3 noticed drain)).sweep? 3).map (·.outcome) = some (some .modeAborted) := by decide +kernel

/-! ### Invariants -/

/-- The premises of the invariants' statements hold together of a state with work in it. -/
theorem test_invariants : let s := { withScan live with
      memory := [(64, 1)], pwb := [⟨1, 0x7c, [3]⟩], channels := List.replicate 3072 Channel.atReset, pending := [.tick] }
    s.memory.wf ∧ s.pwb.length ≤ 32 ∧ malformed 0x7c 1 = none ∧ s.sizes = [24, 16, 3072, 32, 8, 8, 32] ∧
    s.assembler.fillingEntries.length ≤ 2 ∧ s.geometry.inRange = true ∧ s.requestedMode = .acquire ∧
    baseInRange 0x100000 = true ∧ baseInRange 0x400000 = true ∧ ringSizeOk s.reports.size = true := by decide +kernel

end Sys2Proof.Tests
end

section
/-! PROOFS. What every step keeps of the modes and of Scan Staging (R3, R4, R165): one relation `keepsOrder` between the states before
and after an operation, closed under composition, and one lemma for each operation that can change what it speaks of. -/

namespace Sys2Proof.Machine

/-- What an operation from `s` to `t` keeps: the agreement of the modes, and the order of Scan Staging. -/
def State.keepsOrder (s t : State) : Prop := (s.modesOk → t.modesOk) ∧ (s.stagingOk → t.stagingOk)

/-- The mode and the requested mode. -/
def State.modes (s : State) : Mode × Mode := (s.mode, s.requestedMode)

namespace State.keepsOrder

theorem refl (s : State) : s.keepsOrder s := ⟨id, id⟩

theorem trans {s t u : State} (h : s.keepsOrder t) (k : t.keepsOrder u) : s.keepsOrder u := ⟨k.1 ∘ h.1, k.2 ∘ h.2⟩

/-- What leaves the modes and the Scan Assembler alone keeps both. -/
theorem of_calm {s t : State} (h : t.calm = s.calm) : s.keepsOrder t := by
  simp only [State.calm, Prod.mk.injEq] at h
  obtain ⟨hm, hr, ha⟩ := h
  constructor
  · intro g
    rw [State.modesOk, hm, hr]
    exact g
  · intro g
    rw [State.stagingOk, ha]
    exact g

/-- What comes first may leave the modes and the Scan Assembler alone. -/
theorem after_calm {s t u : State} (k : t.keepsOrder u) (h : t.calm = s.calm) : s.keepsOrder u := (of_calm h).trans k

/-- What leaves the modes alone keeps their agreement. -/
theorem of_staging {s t : State} (hm : t.modes = s.modes) (ha : s.stagingOk → t.stagingOk) : s.keepsOrder t := by
  simp only [State.modes, Prod.mk.injEq] at hm
  obtain ⟨hm, hr⟩ := hm
  refine ⟨fun g => ?_, ha⟩
  rw [State.modesOk, hm, hr]
  exact g

/-- What leaves the Scan Assembler alone keeps its order. -/
theorem of_modes {s t : State} (hm : modesAgree t.mode t.requestedMode) (ha : t.assembler = s.assembler) : s.keepsOrder t :=
  ⟨fun _ => hm, fun g => by rw [State.stagingOk, ha]; exact g⟩

/-- A state of empty staging whose modes agree keeps both, whatever came before. -/
theorem of_empty {s t : State} (hm : s.modesOk → modesAgree t.mode t.requestedMode) (ha : t.assembler = ⟨[], none, none⟩) :
    s.keepsOrder t := ⟨hm, fun _ => by rw [State.stagingOk, ha]; exact Assembler.ok_empty⟩

end State.keepsOrder

/-! ### The Scan Assembler -/

/-- The STRAY_SAMPLE report clears the mark and nothing else of the Scan Assembler. -/
@[simp] theorem State.reportStray_assembler (s : State) : s.reportStray.assembler = { s.assembler with stray := none } := by
  unfold State.reportStray
  split
  · rename_i h
    rw [← h]
  · rfl

/-- The releasable scans released: their PROCESS items, the Stall Timer reloaded and the STALLED sweeps resumed (R14, R15). -/
def State.released (s : State) : State :=
  let r := releaseComplete s.assembler.staging
  State.resumeStalled (State.reloadStall { s with
    assembler := { s.assembler with staging := r.1 }
    engine := { s.engine with list := s.engine.list ++ r.2.map EngineItem.process } })

/-- With no scan to release nothing happens. -/
theorem State.releaseScans_none {s : State} (h : (releaseComplete s.assembler.staging).2 = []) : s.releaseScans = s := by
  unfold State.releaseScans
  simp only [h]

/-- With a scan to release, STRAY_SAMPLE comes next, and STREAM_RESUMED when a sweep was STALLED (R15, R42). -/
theorem State.releaseScans_some {s : State} (h : (releaseComplete s.assembler.staging).2 ≠ []) :
    s.releaseScans = if s.stalledCount = 0 then s.released.reportStray
      else s.released.reportStray.submit .streamResumed 0 none s.stalledCount := by
  obtain ⟨x, xs, hx⟩ := List.exists_cons_of_ne_nil h
  unfold State.releaseScans State.released
  simp only [hx]
  rfl

/-- A release keeps the entries of staging and the newest number. -/
theorem State.releaseScans_shrink (s : State) :
    Shrink s.assembler.staging s.releaseScans.assembler.staging ∧ s.releaseScans.assembler.newest = s.assembler.newest := by
  by_cases h : (releaseComplete s.assembler.staging).2 = []
  · rw [State.releaseScans_none h]
    exact ⟨Shrink.refl _, rfl⟩
  · rw [State.releaseScans_some h]
    split <;> simp [State.released, releaseComplete_shrink]

/-- The sample words of a write taken, before the release that follows them. -/
def State.wordsTaken (s : State) (w : RawWrite) : State :=
  let r := takeSamples s.geometry.c w.slot s.assembler.staging (w.samples s.geometry.c)
  let a := { s.assembler with staging := r.1 }
  { s with assembler := if r.2 then a.strayWrite w else a }

theorem State.takeWords_eq (s : State) (w : RawWrite) : s.takeWords w = (s.wordsTaken w).releaseScans := rfl

/-- The sample words of a write keep the entries of staging and the newest number. -/
theorem State.wordsTaken_shrink (s : State) (w : RawWrite) :
    Shrink s.assembler.staging (s.wordsTaken w).assembler.staging ∧ (s.wordsTaken w).assembler.newest = s.assembler.newest := by
  unfold State.wordsTaken
  simp only
  split <;> exact ⟨takeSamples_shrink _ _ _ _, rfl⟩

/-- The sample words of a write, with the release, keep staging in order. -/
theorem State.takeWords_stagingOk (s : State) (w : RawWrite) (h : s.stagingOk) : (s.takeWords w).stagingOk :=
  have taken := State.wordsTaken_shrink s w
  have released := State.releaseScans_shrink (s.wordsTaken w)
  Assembler.ok_of_shrink (taken.1.trans released.1) (released.2.trans taken.2) h

/-- A stray write touches the mark alone. -/
theorem State.strayWords_stagingOk (s : State) (w : RawWrite) (h : s.stagingOk) : (s.strayWords w).stagingOk := by
  unfold State.strayWords
  split
  · exact h
  · exact Assembler.ok_of_shrink (a := s.assembler) (Shrink.refl _) rfl h

@[simp] theorem State.submit_modes (s : State) (k : ReportKind) (n : Nat) (q : Option Requester) (x : Nat) :
    (s.submit k n q x).modes = s.modes := rfl
@[simp] theorem State.forceClose_modes (s : State) (e : StagingEntry) : (s.forceClose e).modes = s.modes := rfl
@[simp] theorem State.noteScan_modes (s : State) (w : RawWrite) (n : Nat) : (s.noteScan w n).modes = s.modes := by
  unfold State.noteScan
  repeat' split
  all_goals rfl
@[simp] theorem State.closeSlot_modes (s : State) (i : Nat) : (s.closeSlot i).modes = s.modes := by
  unfold State.closeSlot
  split <;> simp
@[simp] theorem State.stageScan_modes (s : State) (i n : Nat) : (s.stageScan i n).modes = s.modes := rfl
@[simp] theorem State.limitFilling_modes (s : State) : s.limitFilling.modes = s.modes := by
  unfold State.limitFilling
  repeat' split
  all_goals simp
@[simp] theorem State.openScan_modes (s : State) (w : RawWrite) (n : Nat) : (s.openScan w n).modes = s.modes := by
  simp [State.openScan]
@[simp] theorem State.reportStray_modes (s : State) : s.reportStray.modes = s.modes := by
  unfold State.reportStray
  split <;> rfl
@[simp] theorem State.releaseScans_modes (s : State) : s.releaseScans.modes = s.modes := by
  by_cases h : (releaseComplete s.assembler.staging).2 = []
  · rw [State.releaseScans_none h]
  · rw [State.releaseScans_some h]
    split <;> exact State.reportStray_modes _
@[simp] theorem State.takeWords_modes (s : State) (w : RawWrite) : (s.takeWords w).modes = s.modes :=
  State.releaseScans_modes (s.wordsTaken w)
@[simp] theorem State.strayWords_modes (s : State) (w : RawWrite) : (s.strayWords w).modes = s.modes := by
  unfold State.strayWords
  split <;> rfl
@[simp] theorem State.takeRawWrite_modes (s : State) (w : RawWrite) : (s.takeRawWrite w).modes = s.modes := by
  unfold State.takeRawWrite
  split <;> simp

/-- The Scan Assembler keeps staging in order when it takes a write for which there is room (R7). -/
theorem State.takeRawWrite_stagingOk (s : State) (w : RawWrite)
    (room : (s.assembler.headerVerdict w).needsEntry = true → s.assembler.hasFreeEntry = true) (h : s.stagingOk) :
    (s.takeRawWrite w).stagingOk := by
  unfold State.takeRawWrite
  split
  · exact State.takeWords_stagingOk s w h
  · exact State.strayWords_stagingOk _ w h
  · exact State.strayWords_stagingOk _ w h
  · rename_i n hv
    have free : s.assembler.staging.length < 4 :=
      of_decide_eq_true (room (by rw [hv]; rfl))
    exact State.takeWords_stagingOk _ w (State.openScan_ok s w n h free (Assembler.newest_lt_of_pass hv))

/-! ### Mode Control -/

/-- Entry into IDLE keeps both: the modes are IDLE and staging is empty (R170). -/
theorem State.enterIdle_keeps (s : State) (c : ModeCause) : s.keepsOrder (s.enterIdle c) := by
  have h := State.enterIdle_calm s c
  simp only [State.calm, Prod.mk.injEq] at h
  obtain ⟨hm, hr, ha⟩ := h
  exact .of_empty (fun _ => by rw [hm, hr]; rfl) ha

/-- A change of mode that agrees with its requested mode keeps both. -/
theorem State.changeMode_keeps (s : State) (m r : Mode) (c : ModeCause) (h : modesAgree m r) : s.keepsOrder (s.changeMode m r c) :=
  .of_modes h rfl

theorem State.drainEnd_keeps (s : State) : s.keepsOrder s.drainEnd := by
  unfold State.drainEnd
  split
  · exact State.enterIdle_keeps s _
  · exact .refl s

theorem State.leaveAcquire_keeps (s : State) : s.keepsOrder s.leaveAcquire := by
  unfold State.leaveAcquire
  split
  · exact State.enterIdle_keeps s _
  · exact State.changeMode_keeps s _ _ _ rfl

/-- The end of a command adds nothing to what came before it. -/
theorem State.keepsOrder.endCommand {s t : State} (h : s.keepsOrder t) (x : Status) (r : Option (List Word)) :
    s.keepsOrder (t.endCommand x r) := h.trans (.of_calm (State.endCommand_calm t x r))

theorem State.setMode_keeps (s : State) (target : Mode) (flag : Nat) : s.keepsOrder (s.setMode target flag) := by
  have abort : s.keepsOrder (s.applyAbort flag) := .of_calm (State.applyAbort_calm s flag)
  have acquire : s.keepsOrder (s.changeMode .acquire .acquire .setMode) := State.changeMode_keeps s _ _ _ rfl
  unfold State.setMode
  split
  · split
    · exact acquire.endCommand _ _
    · exact (State.keepsOrder.refl s).endCommand _ _
  · exact (State.keepsOrder.refl s).endCommand _ _
  · exact (State.keepsOrder.refl s).endCommand _ _
  · exact (abort.trans (State.leaveAcquire_keeps _)).endCommand _ _
  · exact acquire.endCommand _ _
  · exact abort.endCommand _ _

theorem State.setModeRule_keeps (q : QueueEntry) (s : State) : s.keepsOrder (s.setModeRule q) := by
  unfold State.setModeRule
  repeat' split
  · exact (State.keepsOrder.refl s).endCommand _ _
  · exact State.setMode_keeps s _ _
  · exact State.setMode_keeps s _ _
  · exact (State.keepsOrder.refl s).endCommand _ _

/-! ### The Correlation Engine -/

/-- The end of a PROCESS item frees the scan's entry alone (R16). -/
theorem State.finishProcess_keeps (s : State) (t : Nat) : s.keepsOrder (s.finishProcess t) :=
  .of_staging rfl (Assembler.ok_of_sublist List.filter_sublist rfl)

/-- A PROCESS item keeps both: only its end touches staging. -/
theorem State.serveFrom_keeps (t : Nat) : ∀ (l : List Nat) (s : State), s.keepsOrder (State.serveFrom t l s)
  | [], s => State.finishProcess_keeps s t
  | e :: rest, s => by
    unfold State.serveFrom
    split
    · exact State.serveFrom_keeps t rest s
    · rename_i w _
      split
      · have served : s.keepsOrder (s.serveSweep t e w).2 := .of_calm (State.serveSweep_calm s t e w)
        split
        · rename_i s1 hs
          rwa [hs] at served
        · rename_i s1 hs
          rw [hs] at served
          exact served.trans (State.serveFrom_keeps t rest s1)
      · exact State.serveFrom_keeps t rest s

theorem State.serveRest_keeps (s : State) (t e : Nat) : s.keepsOrder (s.serveRest t e) :=
  (State.serveFrom_keeps t (entriesAfter e) { s with engine := { s.engine with work := none } }).after_calm rfl

theorem State.serveOn_keeps (t e : Nat) (r : Bool × State) : r.2.keepsOrder (State.serveOn t e r) := by
  obtain ⟨b, s⟩ := r
  cases b
  · exact State.serveRest_keeps s t e
  · exact .refl s

theorem State.skipWork_keeps (s : State) (w : EngineWork) : s.keepsOrder (s.skipWork w) := by
  unfold State.skipWork
  split
  · exact .of_calm rfl
  · exact State.serveRest_keeps s _ _

theorem State.discardedAnswer_keeps (s : State) (c : Client) : s.keepsOrder (s.discardedAnswer c) := by
  unfold State.discardedAnswer
  split
  · repeat' split
    · exact .refl s
    · exact State.skipWork_keeps s _
    · exact .refl s
  all_goals exact .refl s

theorem State.engineAnswered_keeps (s : State) (ok : Bool) (ws : List Word) : s.keepsOrder (s.engineAnswered ok ws) := by
  unfold State.engineAnswered
  split
  · exact .refl s
  · rename_i work _
    split
    · refine (State.skipWork_keeps _ work).after_calm ?_
      split <;> simp
    · split
      · exact State.skipWork_keeps s work
      · split
        · exact .of_calm (State.continueClear_calm _ _ _)
        · exact (State.serveOn_keeps _ _ _).after_calm (State.processAnswered_calm _ _ _ _ _ _)
        · exact State.skipWork_keeps s work

theorem State.takeProcess_keeps (s : State) : s.keepsOrder s.takeProcess := by
  unfold State.takeProcess
  split
  · rename_i t rest _
    exact (State.serveFrom_keeps t (List.range Config.sweepCount) { s with engine := { s.engine with list := rest } }).after_calm rfl
  · exact .refl s

/-! ### The Stack Unit: the end of a fold may end a drain (R170) -/

theorem State.foldEnd_keeps (s : State) (f : FoldWork) (w : Sweep) (o : SweepOutcome) : s.keepsOrder (s.foldEnd f w o) :=
  (State.drainEnd_keeps _).after_calm (by simp)

theorem State.foldFrom_keeps (w : Sweep) (x : Bool) :
    ∀ (cs : List Nat) (f : FoldWork) (s : State), s.keepsOrder (State.foldFrom w x cs f s)
  | [], f, s => State.foldEnd_keeps s f w .stacked
  | c :: rest, f, s => by
    unfold State.foldFrom
    repeat' split
    · exact State.foldFrom_keeps w x rest _ s
    · exact State.foldFrom_keeps w x rest _ s
    · exact .of_calm rfl

theorem State.foldRest_keeps (s : State) (f : FoldWork) (w : Sweep) (x : Bool) : s.keepsOrder (s.foldRest f w x) :=
  State.foldFrom_keeps w x f.rest f s

theorem State.foldVerdict_keeps (s : State) (f : FoldWork) (w : Sweep) (x : Bool) : s.keepsOrder (s.foldVerdict f w x) := by
  unfold State.foldVerdict
  simp only
  split
  · exact (State.foldRest_keeps _ _ w x).after_calm (State.applyVerdict_calm s _ _ _)
  · exact .of_calm (State.applyVerdict_calm s _ _ _)

theorem State.foldAnsweredOk_keeps (s : State) (f : FoldWork) (w : Sweep) (x : Bool) (ws : List Word) :
    s.keepsOrder (s.foldAnsweredOk f w x ws) := by
  unfold State.foldAnsweredOk
  simp only
  repeat' split
  · exact .of_calm rfl
  · exact State.foldVerdict_keeps s _ w x
  · exact .of_calm rfl
  · exact .of_calm rfl
  · exact State.foldRest_keeps s f w x

theorem State.foldAnsweredFault_keeps (s : State) (f : FoldWork) (w : Sweep) (x : Bool) : s.keepsOrder (s.foldAnsweredFault f w x) := by
  unfold State.foldAnsweredFault
  split
  all_goals exact (State.foldRest_keeps _ _ w true).after_calm (State.stackDamage_calm s _ _ _)

theorem State.beginFold_keeps (s : State) (e : Nat) (w : Sweep) : s.keepsOrder (s.beginFold e w) := by
  unfold State.beginFold
  simp only
  split
  · exact (State.foldFrom_keeps _ _ _ _ (s.setSweep e _)).after_calm rfl
  · exact (State.foldEnd_keeps (s.setSweep e _) _ _ _).after_calm rfl
  · exact .of_calm rfl

theorem State.takeFold_keeps (s : State) : s.keepsOrder s.takeFold := by
  unfold State.takeFold
  split
  · rename_i e rest _
    refine State.keepsOrder.trans (t := { s with stackUnit := { s.stackUnit with list := rest } }) (.of_calm rfl) ?_
    simp only
    split
    · exact State.beginFold_keeps _ e _
    · exact .refl _
  · exact .refl s

theorem State.stackAnswered_keeps (s : State) (ok : Bool) (ws : List Word) : s.keepsOrder (s.stackAnswered ok ws) := by
  unfold State.stackAnswered
  split
  · exact .refl s
  · exact .of_calm (State.slotClearAnswered_calm _ _ _ _ _)
  · exact .of_calm (State.sealAnswered_calm _ _ _ _ _)
  · repeat' split
    · exact .of_calm rfl
    · exact State.foldAnsweredOk_keeps s _ _ _ ws
    · exact State.foldAnsweredFault_keeps s _ _ _

/-! ### Commands, and the steps due at once -/

/-- The rule of a command keeps both. -/
theorem CommandKind.rule_keeps (k : CommandKind) (q : QueueEntry) (s : State) : s.keepsOrder (k.rule q s) := by
  cases k
  case setMode => exact State.setModeRule_keeps q s
  all_goals exact .of_calm (by simp [CommandKind.rule])

theorem State.beginCommand_keeps (k : CommandKind) (s : State) : s.keepsOrder (s.beginCommand k k.rule) := by
  unfold State.beginCommand
  repeat' split
  · exact .refl s
  · exact CommandKind.rule_keeps k _ s
  · exact (State.keepsOrder.refl s).endCommand _ _

theorem State.beginHead_keeps (s : State) : s.keepsOrder s.beginHead := by
  unfold State.beginHead
  repeat' split
  · exact .refl s
  · exact (State.keepsOrder.refl s).endCommand _ _
  · exact State.beginCommand_keeps _ s

theorem State.atOnce_keeps (s : State) : s.keepsOrder s.atOnce := by
  unfold State.atOnce
  repeat' split
  · exact State.beginHead_keeps s
  · exact .of_calm (State.makeSlotClaim_calm s)
  · exact .of_calm (State.makeWindowChange_calm s)

theorem State.settle_keeps (s : State) : s.keepsOrder s.settle := .of_calm (State.settle_calm s)

theorem State.caughtUp_keepsOrder (s : State) : s.keepsOrder s.caughtUp :=
  State.caughtUp_keeps (P := s.keepsOrder) (fun x h => h.trans (State.settle_keeps x)) (fun x h => h.trans (State.atOnce_keeps x))
    (.refl s)

theorem State.resetScans_keeps (s : State) : s.keepsOrder s.resetScans := by
  unfold State.resetScans
  split
  · have h := State.clearAssembler_calm s
    simp only [State.calm, Prod.mk.injEq] at h
    obtain ⟨hm, hr, ha⟩ := h
    exact .of_empty (fun g => by simpa [hm, hr] using (show modesAgree s.mode s.requestedMode from g)) ha
  · exact .refl s

theorem State.resetDone_keeps (s : State) : s.keepsOrder s.resetDone := by
  unfold State.resetDone State.resetMode
  split
  · refine State.keepsOrder.endCommand (State.keepsOrder.trans ?_ (.of_calm (State.submit_calm _ _ _ _ _))) _ _
    split
    · exact .refl s
    · exact State.enterIdle_keeps s _
  · exact .refl s

/-! ### Transactions and answers -/

theorem State.takeWrite_keeps (s : State) (q : Requester) (a : Nat) (data : List Word)
    (room : s.opensScan q a data = true → s.assembler.hasFreeEntry = true) : s.keepsOrder (s.takeWrite q a data) := by
  unfold State.takeWrite
  split
  · exact .of_calm (by simp)
  · split
    · exact .refl s
    · rename_i w hw
      have room' : (s.assembler.headerVerdict (s.rawWrite w q a data)).needsEntry = true → s.assembler.hasFreeEntry = true := by
        simpa [State.opensScan, hw] using room
      exact .of_staging (State.takeRawWrite_modes s _) (State.takeRawWrite_stagingOk s _ room')
  · exact .of_calm rfl
  all_goals exact .refl s

/-- The step of R123 that buffers the write leaves what the decision looks at as it was. -/
theorem State.forward_cases (s : State) (q : Requester) (a : Nat) (data : List Word) :
    s.forward q a data = s ∨ s.forward q a data = { s with pwb := s.pwb ++ [⟨q, a, data⟩] } := by
  unfold State.forward
  split
  · exact .inr rfl
  · exact .inl rfl

theorem State.decideWrite_keeps (s : State) (q : Requester) (a : Nat) (data : List Word) : s.keepsOrder (s.decideWrite q a data) := by
  unfold State.decideWrite
  split
  · exact .of_calm rfl
  · split
    · exact .of_calm rfl
    · split
      · rename_i room
        have free : s.opensScan q a data = true → s.assembler.hasFreeEntry = true := by
          simp only [State.hasRoomFor, Bool.and_eq_true, Bool.or_eq_true] at room
          intro h
          simpa [h] using room.2
        refine State.keepsOrder.trans ?_ (.of_calm rfl)
        rcases State.forward_cases s q a data with h | h <;> rw [h]
        · exact State.takeWrite_keeps s q a data free
        · exact (State.takeWrite_keeps { s with pwb := s.pwb ++ [⟨q, a, data⟩] } q a data free).after_calm rfl
      · exact .of_calm rfl

theorem State.holdRead_calm (s : State) (q : Requester) (a n : Nat) : (s.holdRead q a n).calm = s.calm := by
  unfold State.holdRead
  simp only
  split <;> rfl

theorem State.decideRead_calm (s : State) (q : Requester) (a n : Nat) : (s.decideRead q a n).calm = s.calm := by
  have hold := State.holdRead_calm s q a n
  have defer := State.deferRead_calm s q a n
  unfold State.decideRead
  split
  · exact hold
  · split
    · exact hold
    · split
      · exact hold
      · split
        · exact hold
        · rename_i r hr
          exact (State.sealedRead_base s q a n r hr).2
      all_goals exact defer _

theorem State.readTransaction_calm (s : State) (q : Requester) (a n : Nat) : (s.readTransaction q a n).calm = s.calm := by
  unfold State.readTransaction
  split
  · rfl
  · exact State.decideRead_calm s q a n

theorem State.issueRead_calm (s : State) : s.issueRead.calm = s.calm := by
  unfold State.issueRead
  split <;> rfl

theorem State.deliveryAnswered_calm (s : State) (ok : Bool) : (s.deliveryAnswered ok).calm = s.calm := by
  unfold State.deliveryAnswered
  repeat' split
  all_goals rfl

theorem State.readAnswered_calm (s : State) (ok : Bool) (ws : List Word) : (s.readAnswered ok ws).calm = s.calm := by
  unfold State.readAnswered
  simp only
  repeat' split
  all_goals rfl

theorem State.forwardAttempt_calm (s : State) (a : DramAnswer) : (s.forwardAttempt a).calm = s.calm := by
  unfold State.forwardAttempt
  split
  · rfl
  · rename_i source o _
    cases source
    · exact State.deliveryAnswered_calm _ _
    · exact State.readAnswered_calm _ _ _

theorem State.clientAnswered_keeps (s : State) (c : Client) (ok : Bool) (ws : List Word) : s.keepsOrder (s.clientAnswered c ok ws) := by
  cases c with
  | engine => exact State.engineAnswered_keeps s ok ws
  | stackUnit => exact State.stackAnswered_keeps s ok ws
  | pilotUnit => exact .of_calm (State.checkAnswered_calm s ok ws)
  | drqFetch => exact .of_calm (State.fetchAnswered_calm s ok ws)
  | reportUnit => exact .of_calm (State.reportAnswered_calm s ok)

theorem State.partAttempt_keeps (s : State) (a : DramAnswer) (c : Client) : s.keepsOrder (s.partAttempt a c) := by
  unfold State.partAttempt
  split
  · exact .refl s
  · simp only
    split
    · exact (State.discardedAnswer_keeps _ c).after_calm rfl
    · exact (State.clientAnswered_keeps _ c _ _).after_calm rfl

theorem State.attemptAnswered_keeps (a : DramAnswer) (s : State) : s.keepsOrder (s.attemptAnswered a) := by
  unfold State.attemptAnswered
  repeat' split
  · exact .refl s
  · exact .of_calm (State.forwardAttempt_calm s a)
  · exact .refl s
  · exact State.partAttempt_keeps s a _

theorem State.attemptBusy_keeps (s : State) : s.keepsOrder s.attemptBusy := by
  unfold State.attemptBusy
  repeat' split
  · exact .refl s
  · exact .of_calm rfl
  · exact State.attemptAnswered_keeps _ s

theorem State.abandonedFinished_calm (landed : List Bool) (s : State) : (s.abandonedFinished landed).calm = s.calm := by
  unfold State.abandonedFinished
  split <;> rfl

theorem State.tickStall_calm (s : State) : s.tickStall.calm = s.calm := by
  unfold State.tickStall
  repeat' split
  · rfl
  · exact State.stallExpire_calm s
  · rfl

theorem State.pulse_calm (s : State) : s.pulse.calm = s.calm :=
  (State.foldl_calm State.countDown State.countDown_calm _ s.tickStall).trans (State.tickStall_calm s)

/-! ### Every row -/

/-- An event keeps both when its effect does. -/
theorem State.event_keeps {due : State → Bool} {effect : State → State} (h : ∀ m : State, m.keepsOrder (effect m)) {s t : State}
    (ht : State.event due effect s = .next t) : s.keepsOrder t := by
  obtain rfl | ⟨_, rfl⟩ := State.event_next ht
  · exact .refl _
  · exact ((State.settle_keeps s).trans (h _)).trans (State.settle_keeps _)

/-- The same for an event that what is due at once comes before. -/
theorem State.laterEvent_keeps {due : State → Bool} {effect : State → State} (h : ∀ m : State, m.keepsOrder (effect m)) {s t : State}
    (ht : State.laterEvent due effect s = .next t) : s.keepsOrder t := by
  obtain rfl | ⟨_, rfl⟩ := State.laterEvent_next ht
  · exact .refl _
  · exact ((State.caughtUp_keepsOrder s).trans (h _)).trans (State.settle_keeps _)

theorem State.command_keeps (k : CommandKind) {s t : State} (ht : State.command k k.rule s = .next t) : s.keepsOrder t :=
  State.event_keeps (State.beginCommand_keeps k) ht

/-- A line reset leaves modes that agree and empty staging, whatever came before (R165). -/
theorem State.lineReset_keeps (b : BitVec 4) (s : State) : s.keepsOrder (s.lineReset b).settle :=
  State.keepsOrder.trans (t := s.lineReset b) (.of_empty (fun _ => rfl) rfl) (State.settle_keeps _)

/-- Every row keeps the agreement of the modes and the order of Scan Staging. -/
theorem exec_keepsOrder (i : Instr) {s t : State} (h : exec i s = .next t) : s.keepsOrder t := by
  have answer (a : DramAnswer) := State.attemptAnswered_keeps a
  have write (q : Requester) (a : Nat) (data : List Word) := fun m => State.decideWrite_keeps m q a data
  have pulse (m : State) : m.keepsOrder m.pulse := .of_calm (State.pulse_calm m)
  cases i with
  | lineReset b =>
    obtain rfl : (s.lineReset b).settle = t := by injection h
    exact State.lineReset_keeps b s
  | tick => exact State.laterEvent_keeps (due := fun _ => true) pulse h
  | stallTimerExpiry => exact State.laterEvent_keeps pulse h
  | discardCountdownExpiry e => exact State.laterEvent_keeps pulse h
  | upstreamWrite q a d => exact State.laterEvent_keeps (write q _ d) h
  | rawWindowWrite q a d => exact State.laterEvent_keeps (write q _ d) h
  | consumerIndexWrite q a d => exact State.laterEvent_keeps (write q _ d) h
  | upstreamRead q a n => exact State.laterEvent_keeps (fun m => .of_calm (State.readTransaction_calm m q _ n)) h
  | passThroughReadIssue => exact State.laterEvent_keeps (fun m => .of_calm (State.issueRead_calm m)) h
  | passThroughReadAnswer a => exact State.laterEvent_keeps (answer a) h
  | pwbDeliveryAnswer a => exact State.laterEvent_keeps (answer a) h
  | attemptBusy => exact State.laterEvent_keeps State.attemptBusy_keeps h
  | clearSweep => exact State.laterEvent_keeps (fun m => .of_calm (State.takeClear_calm m)) h
  | processScan => exact State.laterEvent_keeps State.takeProcess_keeps h
  | engineTransferAnswer a => exact State.laterEvent_keeps (answer a) h
  | clearSlot => exact State.laterEvent_keeps (fun m => .of_calm (State.takeClearSlot_calm m)) h
  | fold => exact State.laterEvent_keeps State.takeFold_keeps h
  | stackUnitTransferAnswer a => exact State.laterEvent_keeps (answer a) h
  | drqFetchAnswer a => exact State.laterEvent_keeps (answer a) h
  | pilotCheckStart => exact State.laterEvent_keeps (fun m => .of_calm (State.startCheck_calm m)) h
  | pilotCheckReadAnswer a => exact State.laterEvent_keeps (answer a) h
  | reportWriteAnswer a => exact State.laterEvent_keeps (answer a) h
  | producerWriteAnswer a => exact State.laterEvent_keeps (answer a) h
  | mirrorWriteAnswer a => exact State.laterEvent_keeps (answer a) h
  | busyWriteHanded => exact State.laterEvent_keeps (fun m => .of_calm (State.handBusyWrite_calm m)) h
  | commandSlotWriteAnswer a => exact State.laterEvent_keeps (answer a) h
  | badKindCommand => exact State.event_keeps (fun m => .of_calm (State.endCommand_calm m _ _)) h
  | windowChange => exact State.event_keeps (fun m => .of_calm (State.makeWindowChange_calm m)) h
  | slotClaim => exact State.event_keeps (fun m => .of_calm (State.makeSlotClaim_calm m)) h
  | engineResetScanAssembler => exact State.laterEvent_keeps State.resetScans_keeps h
  | engineResetDone => exact State.laterEvent_keeps State.resetDone_keeps h
  | abandonedAttemptFinished l => exact State.laterEvent_keeps (fun m => .of_calm (State.abandonedFinished_calm l m)) h
  | setGeometry => exact State.command_keeps .setGeometry h
  | setWindow => exact State.command_keeps .setWindow h
  | setTimers => exact State.command_keeps .setTimers h
  | readState => exact State.command_keeps .readState h
  | engineReset => exact State.command_keeps .engineReset h
  | noticeSweep => exact State.command_keeps .noticeSweep h
  | cancelSweep => exact State.command_keeps .cancelSweep h
  | readSweep => exact State.command_keeps .readSweep h
  | definePilot => exact State.command_keeps .definePilot h
  | removePilot => exact State.command_keeps .removePilot h
  | muteChannel => exact State.command_keeps .muteChannel h
  | unmuteChannel => exact State.command_keeps .unmuteChannel h
  | readChannel => exact State.command_keeps .readChannel h
  | openSourcePoint => exact State.command_keeps .openSourcePoint h
  | closeSourcePoint => exact State.command_keeps .closeSourcePoint h
  | releaseStack => exact State.command_keeps .releaseStack h
  | setArbiter => exact State.command_keeps .setArbiter h
  | setMode => exact State.command_keeps .setMode h
  | setReports => exact State.command_keeps .setReports h
  -- The one row left is SEAL, whose name as a case is a keyword of Lean.
  | _ => exact State.laterEvent_keeps (fun m => .of_calm (State.takeSeal_calm m)) h

/-- Every step keeps both. -/
theorem step_keepsOrder {s t : State} (h : step s = .next t) : s.keepsOrder t := by
  unfold step at h
  split at h
  · injection h with h
    exact h ▸ .refl s
  · rename_i c rest _
    exact (exec_keepsOrder c h).after_calm rfl

/-- Settles O58: every operation keeps the agreement of the modes and the order of staging, and a step is made of them. -/
theorem stepKeepsModesAndStaging : Obligations.StepKeepsModesAndStaging :=
  ⟨fun _ _ hs h => (step_keepsOrder h).1 hs, fun _ _ hs h => (step_keepsOrder h).2 hs⟩

end Sys2Proof.Machine
end

section
/-! PROOFS. The invariants at reset and after a line reset. -/

namespace Sys2Proof.Machine

/-- The boundary work leaves the tables' sizes alone. -/
theorem State.settle_sizes (s : State) : s.settle.sizes = s.sizes :=
  congrArg (fun x => x.2.2.2.2.2.2) (State.settle_outside s)

/-- The boundary work leaves the slices alone. -/
theorem State.settle_slices (s : State) : s.settle.port.slices = s.port.slices := by
  rw [State.settle_port, Port.arbitrate_slices, State.presentDelivery_slices, State.presentFetch_slices, State.presentReport_slices]

/-- The boundary work leaves the ring size alone. -/
@[simp] theorem State.settle_ringSize (s : State) : s.settle.reports.size = s.reports.size := congrArg (·.1) (State.presentReport_ring s)

/-- The boundary work keeps the settings in range. -/
theorem State.settle_settingsOk {s : State} (h : s.settingsOk) : s.settle.settingsOk := by
  have hs := State.settle_slices s
  simp only [Port.slices, Prod.mk.injEq] at hs
  obtain ⟨hf, hp⟩ := hs
  unfold State.settingsOk
  rw [hf, hp, State.settle_ringSize]
  exact h

/-- The values of a line reset: no buffered write, the tables of their sizes, and the settings of R143, R158 and R174. -/
theorem State.lineResetValues_ok (b : BitVec 4) (left : Option Transfer) (m : Memory) (q : List Instr) :
    let s := State.lineResetValues b left m q
    s.bufferOk ∧ s.modesOk ∧ s.stagingOk ∧ s.tablesOk ∧ s.settingsOk := by
  refine ⟨⟨Nat.zero_le _, by simp [State.lineResetValues]⟩, rfl, Assembler.ok_empty, ?_, ?_⟩
  · simp only [State.tablesOk, State.sizes, State.lineResetValues, Reports.atReset, List.length_replicate]
    rfl
  · simp [State.settingsOk, State.windowsOk, State.lineResetValues, Port.atReset, Reports.atReset, Config.sliceAtReset,
      Config.stallPeriodAtReset, Config.discardPeriodAtReset, ringSizeOk]

/-- Settles O60: the reset values meet the invariants, and the boundary work that ends a line reset keeps them. -/
theorem invariantsAtReset : Obligations.InvariantsAtReset := by
  constructor
  · obtain ⟨hb, hm, hs, ht, hg⟩ := State.lineResetValues_ok 0 none [] []
    exact ⟨Memory.wf_nil, hb, hm, hs, ht, hg⟩
  · intro b s t h
    obtain rfl : (s.lineReset b).settle = t := by injection h
    obtain ⟨hb, hm, hs, ht, hg⟩ := State.lineResetValues_ok b s.leftAtDram s.memory s.pending
    exact ⟨hb, hm, hs, (State.settle_sizes _).trans ht, State.settle_settingsOk hg, rfl, rfl⟩

end Sys2Proof.Machine
end

section
/-! PROOFS. A write at the upstream port: what the Window Decoder makes of one into the RAW window (R2, R121, R123), and the retry of a
write without room. -/

namespace Sys2Proof.Machine

/-! ### The RAW window -/

/-- Out of IDLE, a write into the RAW window is one that the Scan Assembler looks at (R2). -/
theorem State.liveRaw_some {s : State} {a : Nat} {w : RawWindow} (hr : s.region a = .raw) (hm : s.mode ≠ .idle)
    (hw : s.windows.raw = some w) : s.liveRaw a = some w := by
  simp [State.liveRaw, hr, hm, hw]

/-- In IDLE, or elsewhere, it is not. -/
theorem State.liveRaw_none {s : State} {a : Nat} (h : s.region a ≠ .raw ∨ s.mode = .idle) : s.liveRaw a = none := by
  unfold State.liveRaw
  exact if_neg (by tauto)

/-- A write that the Scan Assembler does not absorb is forwarded (R2, R121). -/
theorem State.forwards_of_plain {s : State} {a : Nat}
    (h : s.region a ≠ .raw ∨ s.mode = .idle ∨ ∃ w, s.windows.raw = some w ∧ w.mode = .tap) : s.forwards a = true := by
  unfold State.forwards
  rw [← or_assoc] at h
  obtain h | ⟨w, hw, ht⟩ := h
  · rw [State.liveRaw_none h]
  · unfold State.liveRaw
    split_ifs <;> simp [hw, ht]

/-- A well-formed write that no part refuses and that has room is accepted (R123). -/
theorem State.decideWrite_accept {s : State} {q : Requester} {a : Nat} {data : List Word} (hm : malformed a data.length = none)
    (hr : s.refusal a data.length = none) (room : s.hasRoomFor q a data = true) :
    s.decideWrite q a data = ((s.forward q a data).takeWrite q a data).giveAnswer .accept := by
  unfold State.decideWrite
  rw [hm, hr]
  exact if_pos room

/-- One that has no room is answered RETRY, and that is all (R123). -/
theorem State.decideWrite_retry {s : State} {q : Requester} {a : Nat} {data : List Word} (hm : malformed a data.length = none)
    (hr : s.refusal a data.length = none) (room : s.hasRoomFor q a data = false) : s.decideWrite q a data = s.giveAnswer .retry := by
  unfold State.decideWrite
  rw [hm, hr]
  exact if_neg (by simp [room])

/-- The write buffered when the RAW window is in TAP mode (R2). -/
def State.tapped (s : State) (w : RawWindow) (q : Requester) (a : Nat) (data : List Word) : State :=
  { s with pwb := if w.mode = .tap then s.pwb ++ [⟨q, a, data⟩] else s.pwb }

/-- The room that a write needs: a place in the buffer when it is forwarded, a staging entry when it opens a scan (R123). -/
theorem State.hasRoomFor_iff (s : State) (q : Requester) (a : Nat) (data : List Word) :
    s.hasRoomFor q a data = true ↔
      (s.forwards a = true → s.pwb.length < 32) ∧ (s.opensScan q a data = true → s.assembler.staging.length < 4) := by
  simp only [State.hasRoomFor, Assembler.hasFreeEntry, Bool.and_eq_true, Bool.or_eq_true, Bool.not_eq_true', decide_eq_true_eq,
    ← Bool.not_eq_true, ← imp_iff_not_or]
  rfl

/-- A write opens a scan when the Scan Assembler passes its header. -/
theorem State.opensScan_raw {s : State} {q : Requester} {a : Nat} {data : List Word} {w : RawWindow} (hr : s.region a = .raw)
    (hi : s.mode ≠ .idle) (hw : s.windows.raw = some w) :
    s.opensScan q a data = (s.assembler.headerVerdict (s.rawWrite w q a data)).needsEntry := by
  simp [State.opensScan, State.liveRaw_some hr hi hw]

/-- A write into the RAW window for which there is room: it is buffered in TAP mode, and the Scan Assembler takes it (R2, R123). -/
theorem State.decideWrite_raw {s : State} {q : Requester} {a : Nat} {data : List Word} {w : RawWindow}
    (hm : malformed a data.length = none) (hr : s.region a = .raw) (hi : s.mode ≠ .idle) (hw : s.windows.raw = some w)
    (buffer : w.mode = .tap → s.pwb.length < 32)
    (entry : (s.assembler.headerVerdict (s.rawWrite w q a data)).needsEntry = true → s.assembler.staging.length < 4) :
    s.decideWrite q a data = ((s.tapped w q a data).takeRawWrite (s.rawWrite w q a data)).giveAnswer .accept := by
  have live := State.liveRaw_some hr hi hw
  have forwards : s.forwards a = (w.mode == .tap) := by simp [State.forwards, live]
  have room : s.hasRoomFor q a data = true := by
    rw [State.hasRoomFor_iff, State.opensScan_raw hr hi hw, forwards]
    exact ⟨fun h => buffer (by simpa using h), entry⟩
  have forward : s.forward q a data = s.tapped w q a data := by
    unfold State.forward State.tapped
    rw [forwards]
    by_cases ht : w.mode = .tap <;> simp [ht]
  have take : (s.tapped w q a data).takeWrite q a data = (s.tapped w q a data).takeRawWrite (s.rawWrite w q a data) := by
    have hr' : (s.tapped w q a data).region a = .raw := hr
    have live' : (s.tapped w q a data).liveRaw a = some w := live
    unfold State.takeWrite
    rw [hr', live']
    rfl
  rw [State.decideWrite_accept hm (by simp [State.refusal, hr]) room, forward, take]

/-! ### No room -/

/-- Settles O13: whichever of the two resources is missing, there is no room for the write. -/
theorem writeWithoutRoomRetried : Obligations.WriteWithoutRoomRetried := by
  intro s f q a data i hf hh hm href hi hroom
  have full : f.hasRoomFor q a.toNat data = false := by
    rw [← Bool.not_eq_true, State.hasRoomFor_iff]
    rintro ⟨buffer, entry⟩
    obtain ⟨hplain, hfull⟩ | ⟨hraw, hidle, hfull, w, n, hw, hv⟩ := hroom
    · exact absurd (buffer (State.forwards_of_plain hplain)) (by omega)
    · rw [State.opensScan_raw hraw hidle hw, State.rawWrite, hv] at entry
      exact absurd (entry rfl) (by omega)
  rw [State.writeRow_at hf hh hi, State.decideWrite_retry hm href full]
  rfl

end Sys2Proof.Machine
end

section
/-! PROOFS. Scan headers (R5 to R9, R13): the verdict on a header, the strays of a refused one, and an admission. -/

namespace Sys2Proof.Machine

/-! ### The verdict on a header (R5, R6) -/

theorem Assembler.headerVerdict_none {a : Assembler} {w : RawWrite} (h : 2 ≤ w.index) : a.headerVerdict w = .noHeader := if_pos h

/-- A header word without the other makes an incomplete header. -/
theorem Assembler.headerVerdict_partial {a : Assembler} {w : RawWrite} (h : w.index = 1 ∨ w.index = 0 ∧ w.data.length = 1) :
    a.headerVerdict w = .bad .partialHeader := by
  unfold Assembler.headerVerdict
  obtain h | ⟨h, hd⟩ := h
  · simp [h]
  · obtain ⟨x, hx⟩ := List.length_eq_one_iff.mp hd
    simp [h, hx]

/-- A header whose high word has a bit above the scan number is out of range. -/
theorem Assembler.headerVerdict_range {a : Assembler} {w : RawWrite} {low high : Word} {rest : List Word} (hi : w.index = 0)
    (hd : w.data = low :: high :: rest) (h : 2 ^ 16 ≤ high.toNat) : a.headerVerdict w = .bad .range := by
  unfold Assembler.headerVerdict
  rw [if_neg (by omega), if_neg (by omega), hd]
  exact if_pos (by omega)

/-- A header in range whose number is not above the newest is a rewind (R6). -/
theorem Assembler.headerVerdict_rewind {a : Assembler} {w : RawWrite} {low high : Word} {rest : List Word} {n m : Nat} (hi : w.index = 0)
    (hd : w.data = low :: high :: rest) (h : high.toNat < 2 ^ 16) (hn : n = low.toNat + 2 ^ 32 * high.toNat)
    (hm : a.newest = some m) (hle : n ≤ m) : a.headerVerdict w = .rewind n := by
  unfold Assembler.headerVerdict
  rw [if_neg (by omega), if_neg (by omega), hd]
  simp only [← hn, hm]
  rw [if_neg (by omega), if_pos hle]

/-- A header in range whose number is above the newest passes. -/
theorem Assembler.headerVerdict_pass {a : Assembler} {w : RawWrite} {low high : Word} {rest : List Word} {n : Nat} (hi : w.index = 0)
    (hd : w.data = low :: high :: rest) (h : high.toNat < 2 ^ 16) (hn : n = low.toNat + 2 ^ 32 * high.toNat)
    (hm : ∀ m, a.newest = some m → m < n) : a.headerVerdict w = .pass n := by
  unfold Assembler.headerVerdict
  rw [if_neg (by omega), if_neg (by omega), hd]
  simp only [← hn]
  rw [if_neg (by omega)]
  split
  · rfl
  · rename_i m h
    exact if_neg (Nat.not_le.mpr (hm m h))

theorem State.takeRawWrite_noHeader {s : State} {w : RawWrite} (h : 2 ≤ w.index) : s.takeRawWrite w = s.takeWords w := by
  unfold State.takeRawWrite
  rw [Assembler.headerVerdict_none h]

theorem State.takeRawWrite_bad {s : State} {w : RawWrite} {r : HeaderReason} (h : s.assembler.headerVerdict w = .bad r) :
    s.takeRawWrite w = (s.submit .badHeader w.address (some w.requester) r.code).strayWords w := by
  unfold State.takeRawWrite
  rw [h]

theorem State.takeRawWrite_rewind {s : State} {w : RawWrite} {n : Nat} (h : s.assembler.headerVerdict w = .rewind n) :
    s.takeRawWrite w = (s.submit .scanRewind n (some w.requester) w.slot).strayWords w := by
  unfold State.takeRawWrite
  rw [h]

theorem State.takeRawWrite_pass {s : State} {w : RawWrite} {n : Nat} (h : s.assembler.headerVerdict w = .pass n) :
    s.takeRawWrite w = (s.openScan w n).takeWords w := by
  unfold State.takeRawWrite
  rw [h]

/-! ### Strays (R11, R12) -/

/-- A write has sample words when some word of it lies at word index 2 to C+1 (R1). -/
theorem RawWrite.samples_eq_nil_iff (w : RawWrite) (c : Nat) :
    w.samples c = [] ↔ ∀ k < w.data.length, ¬(2 ≤ w.index + k ∧ w.index + k < c + 2) := by
  simp only [RawWrite.samples, List.filterMap_eq_nil_iff, ite_eq_right_iff, reduceCtorEq, imp_false]
  constructor
  · intro h k hk
    exact h (w.data[k], k) (by simp [List.mem_zipIdx_iff_getElem?])
  · rintro h ⟨v, k⟩ hp
    exact h k (by
      obtain ⟨hk, _⟩ := List.getElem?_eq_some_iff.mp (List.mem_zipIdx_iff_getElem?.mp hp)
      exact hk)

/-- What the sample words of a refused header do: nothing but mark strays, once for the write. -/
theorem State.strayWords_eq (s : State) (w : RawWrite) : s.strayWords w = { s with assembler := { s.assembler with
    stray := if (List.range w.data.length).any (fun k => decide (2 ≤ w.index + k ∧ w.index + k < s.geometry.c + 2)) = true
      then (s.assembler.strayWrite w).stray else s.assembler.stray } } := by
  have samples := w.samples_eq_nil_iff s.geometry.c
  unfold State.strayWords
  by_cases h : w.samples s.geometry.c = []
  · rw [if_pos (by simp [h]), if_neg (by simpa using samples.mp h)]
  · rw [if_neg (by simpa using h), if_pos (by simpa using mt samples.mpr h)]
    rfl

/-! ### An admission (R8, R9, R13) -/

/-- The first number admitted passes none over (R9). -/
theorem State.noteScan_first {s : State} (w : RawWrite) (n : Nat) (h : s.assembler.newest = none) :
    s.noteScan w n = { s with assembler := { s.assembler with newest := some n } } := by
  unfold State.noteScan
  rw [h]

/-- A later one is reported as a gap when it passes numbers over (R9). -/
theorem State.noteScan_later {s : State} (w : RawWrite) (n : Nat) {m : Nat} (h : s.assembler.newest = some m) :
    s.noteScan w n = if m + 1 < n
      then State.submit { s with assembler := { s.assembler with newest := some n } } .scanGap (m + 1) (some w.requester)
        (min (n - m - 1) (2 ^ 32 - 1))
      else { s with assembler := { s.assembler with newest := some n } } := by
  unfold State.noteScan
  rw [h]

/-- A list of more than two entries shows its first three. -/
theorem exists_cons_cons_cons {α : Type} : ∀ {l : List α}, 2 < l.length → ∃ x y z rest, l = x :: y :: z :: rest
  | x :: y :: z :: rest, _ => ⟨x, y, z, rest, rfl⟩

/-- With at most two FILLING entries none is closed. -/
theorem State.limitFilling_few {s : State} (h : s.assembler.fillingEntries.length ≤ 2) : s.limitFilling = s := by
  unfold State.limitFilling
  split
  · rename_i e rest hl
    rw [hl, List.length_cons] at h
    exact if_neg (by simp [Config.fillingCapacity]; omega)
  · rfl

/-- With three the oldest is closed. -/
theorem State.limitFilling_many {s : State} {e f g : StagingEntry} {rest : List StagingEntry}
    (h : s.assembler.fillingEntries = e :: f :: g :: rest) : s.limitFilling = s.forceClose e := by
  unfold State.limitFilling
  rw [h]
  exact if_pos (by simp [Config.fillingCapacity])

/-- The FILLING entries once a scan has been opened. -/
theorem State.stageScan_fillingEntries (s : State) (slot n : Nat) :
    (s.stageScan slot n).assembler.fillingEntries = s.assembler.fillingEntries ++ [⟨n, slot, .filling, [], [], false⟩] := by
  simp [Assembler.fillingEntries, State.stageScan, List.filter_append]

/-- Without a FILLING entry of the slot none is closed. -/
theorem State.closeSlot_none {s : State} {slot : Nat} (h : ∀ e ∈ s.assembler.staging, e.state = .filling → e.slot ≠ slot) :
    s.closeSlot slot = s := by
  have none : s.assembler.staging.find? (·.fillingIn slot) = .none := by
    simpa [StagingEntry.fillingIn] using h
  unfold State.closeSlot
  rw [none]

/-- A write whose header passes, with room for it: the scan is opened, and the samples of the write are taken. -/
theorem State.decideWrite_header {f : State} {q : Requester} {a slot n : Nat} {low high : Word} {vs : List Word} {w : RawWindow}
    (hm : malformed a (vs.length + 2) = none) (hr : f.region a = .raw) (hi : f.mode ≠ .idle) (hw : f.windows.raw = some w)
    (hslot : slot = (a - w.base) / f.geometry.stride) (hindex : (a - w.base) % f.geometry.stride = 0) (hhigh : high.toNat < 2 ^ 16)
    (hn : n = low.toNat + 2 ^ 32 * high.toNat) (hnew : ∀ x, f.assembler.newest = some x → x < n)
    (entry : f.assembler.staging.length < 4) (buffer : w.mode = .tap → f.pwb.length < 32) :
    f.decideWrite q a (low :: high :: vs) = State.giveAnswer (State.takeWords
      ((f.tapped w q a (low :: high :: vs)).openScan ⟨q, a, slot, 0, low :: high :: vs⟩ n) ⟨q, a, slot, 0, low :: high :: vs⟩)
      .accept := by
  have write : f.rawWrite w q a (low :: high :: vs) = ⟨q, a, slot, 0, low :: high :: vs⟩ := by
    simp [State.rawWrite, rawWriteAt, hslot, hindex]
  have pass : (f.tapped w q a (low :: high :: vs)).assembler.headerVerdict ⟨q, a, slot, 0, low :: high :: vs⟩ = .pass n :=
    Assembler.headerVerdict_pass rfl rfl hhigh hn hnew
  rw [State.decideWrite_raw hm hr hi hw buffer (fun _ => entry), write, State.takeRawWrite_pass pass]

/-- The channels that a forced close holes. -/
theorem StagingEntry.missing_eq (e : StagingEntry) (c : Nat) :
    e.missing c = (List.range c).filter (fun x => ∀ p ∈ e.samples, p.1 ≠ x) :=
  List.filter_congr fun x _ => by rw [Bool.eq_iff_iff]; simp

/-! ### Samples into a FILLING entry (R10) -/

/-- An entry that is released or FILLING does not become releasable: nothing is released. -/
theorem releaseComplete_none : ∀ l : List StagingEntry, (∀ e ∈ l, e.released = true ∨ e.state = .filling) →
    (releaseComplete l).2 = []
  | [], _ => rfl
  | e :: es, h => by
    have ih := releaseComplete_none es (fun x hx => h x (List.mem_cons_of_mem _ hx))
    unfold releaseComplete
    by_cases he : e.released = true
    · simp [he, ih]
    · have := (h e List.mem_cons_self).resolve_left he
      simp [he, this]

/-- A sample goes into the FILLING entry of its slot. -/
theorem takeSample_at {c slot : Nat} {before after : List StagingEntry} {e : StagingEntry} (x : Nat × RawSample)
    (hb : ∀ y ∈ before, y.fillingIn slot = false) (he : e.fillingIn slot = true) (ha : ∀ y ∈ after, y.fillingIn slot = false) :
    takeSample c slot (before ++ e :: after) x = (before ++ e.take c x :: after, false) := by
  have keep : ∀ l : List StagingEntry, (∀ y ∈ l, y.fillingIn slot = false) →
      l.map (fun y => if y.fillingIn slot = true then y.take c x else y) = l := fun l hl =>
    (List.map_congr_left fun y hy => if_neg (by simp [hl y hy])).trans (List.map_id' l)
  unfold takeSample
  rw [if_pos (by simp [he])]
  simp [keep before hb, keep after ha, he]

/-- A sample for a channel above those received joins at the end. -/
theorem insertSample_last (c : Nat) (v : RawSample) : ∀ l : List (Nat × RawSample), (∀ p ∈ l, p.1 < c) →
    insertSample c v l = l ++ [(c, v)]
  | [], _ => rfl
  | (d, u) :: rest, h => by
    have hd : d < c := h (d, u) List.mem_cons_self
    have ih := insertSample_last c v rest (fun p hp => h p (List.mem_cons_of_mem _ hp))
    unfold insertSample
    rw [if_neg (by omega), if_neg (by omega), ih]
    rfl

/-- Samples in channel order, above those received and too few to complete the entry, join it. -/
theorem takeSamples_filling {c slot : Nat} {before after : List StagingEntry} (hb : ∀ y ∈ before, y.fillingIn slot = false)
    (ha : ∀ y ∈ after, y.fillingIn slot = false) : ∀ (xs : List (Nat × RawSample)) (e : StagingEntry), e.fillingIn slot = true →
    (e.samples ++ xs).Pairwise (fun p q => p.1 < q.1) → (e.samples ++ xs).length < c →
    takeSamples c slot (before ++ e :: after) xs = (before ++ { e with samples := e.samples ++ xs } :: after, false)
  | [], e, _, _, _ => by simp [takeSamples]
  | x :: xs, e, he, hs, hl => by
    have last : insertSample x.1 x.2 e.samples = e.samples ++ [x] :=
      insertSample_last _ _ _ fun p hp => (List.pairwise_append.mp hs).2.2 p hp x List.mem_cons_self
    have filling : e.state = .filling ∧ e.slot = slot := by simpa [StagingEntry.fillingIn] using he
    have taken : e.take c x = { e with samples := e.samples ++ [x] } := by
      simp only [List.length_append, List.length_cons] at hl
      unfold StagingEntry.take
      simp only [last]
      rw [if_neg (by simp only [List.length_append, List.length_cons, List.length_nil]; omega), ← filling.1]
    have ih := takeSamples_filling hb ha xs { e with samples := e.samples ++ [x] } he (by simpa using hs) (by simpa using hl)
    simp only [takeSamples, takeSample_at x hb he ha, taken, ih]
    simp

/-- The sample words of a write that begins with a whole header, none of them beyond the last channel (R1). -/
theorem RawWrite.samples_header (w : RawWrite) {c : Nat} {low high : Word} {vs : List Word} (hi : w.index = 0)
    (hd : w.data = low :: high :: vs) (hc : vs.length < c) :
    w.samples c = vs.zipIdx.map (fun p => (p.2, p.1.setWidth 24)) := by
  have shift : vs.zipIdx 2 = vs.zipIdx.map (fun p => (p.1, 2 + p.2)) := List.zipIdx_eq_map_add
  rw [← List.filterMap_eq_map]
  simp only [RawWrite.samples, hi, hd, List.zipIdx_cons, shift, Nat.zero_add, List.filterMap_cons, List.filterMap_map,
    Nat.reduceLeDiff, false_and, if_false]
  refine List.filterMap_congr fun p hp => ?_
  have := List.snd_lt_of_mem_zipIdx hp
  simp only [Function.comp_apply]
  rw [if_pos (by omega), Nat.add_sub_cancel_left]

/-- The samples of a write, once it is known where they go. -/
theorem State.wordsTaken_eq {s : State} {w : RawWrite} {staging : List StagingEntry} {stray : Bool}
    (h : takeSamples s.geometry.c w.slot s.assembler.staging (w.samples s.geometry.c) = (staging, stray)) :
    s.wordsTaken w = { s with assembler := { s.assembler with
      staging := staging, stray := if stray = true then (s.assembler.strayWrite w).stray else s.assembler.stray } } := by
  unfold State.wordsTaken
  rw [h]
  cases stray <;> rfl

/-- A write that begins with a whole header and goes on with too few samples to complete the scan just opened: they are its samples, and
nothing is released. -/
theorem State.takeWords_opened {s : State} {w : RawWrite} {n : Nat} {staging : List StagingEntry} {low high : Word} {vs : List Word}
    (hs : s.assembler.staging = staging ++ [⟨n, w.slot, .filling, [], [], false⟩]) (hi : w.index = 0)
    (hd : w.data = low :: high :: vs) (hc : vs.length < s.geometry.c)
    (other : ∀ e ∈ staging, e.state = .complete ∧ e.released = true ∨ e.state = .filling ∧ e.slot ≠ w.slot) :
    s.takeWords w = { s with assembler := { s.assembler with
      staging := staging ++ [⟨n, w.slot, .filling, vs.zipIdx.map (fun p => (p.2, p.1.setWidth 24)), [], false⟩] } } := by
  have sorted : (vs.zipIdx.map (fun p => (p.2, p.1.setWidth 24)) : List (Nat × RawSample)).Pairwise (fun p q => p.1 < q.1) := by
    have := List.pairwise_lt_range' (s := 0) (n := vs.length)
    rw [← List.zipIdx_map_snd, List.pairwise_map] at this
    rwa [List.pairwise_map]
  have taken := takeSamples_filling (slot := w.slot) (before := staging) (after := [])
    (fun e he => by
      obtain ⟨h, _⟩ | ⟨_, h⟩ := other e he <;> simp [StagingEntry.fillingIn, h])
    (by simp) _ ⟨n, w.slot, .filling, [], [], false⟩ (by simp [StagingEntry.fillingIn]) sorted (by simpa using hc)
  rw [← RawWrite.samples_header w hi hd hc, ← hs] at taken
  have words := State.wordsTaken_eq taken
  rw [State.takeWords_eq, State.releaseScans_none]
  · rw [words, RawWrite.samples_header w hi hd hc]
    rfl
  · rw [words]
    refine releaseComplete_none _ fun e he => ?_
    obtain he | he := List.mem_append.mp he
    · obtain ⟨_, h⟩ | ⟨h, _⟩ := other e he
      · exact .inl h
      · exact .inr h
    · rw [List.mem_singleton.mp he]
      exact .inr rfl

/-- A transaction of 1 to 16 words from a 64-byte boundary is well formed (R118). -/
theorem malformed_of_block {a n : Nat} (ha : a % 64 = 0) (h0 : n ≠ 0) (hn : n ≤ 16) : malformed a n = none := by
  unfold malformed
  rw [if_neg (by omega), if_neg (by omega), if_neg (by omega)]

/-- Settles O16: the verdict on the header says which of the three forms the write takes. -/
theorem headerAdmitted : Obligations.HeaderAdmitted := by
  refine ⟨?_, ?_, ?_, ?_⟩
  · intro s f q a data i w slot index code subject kind pwb stray hf hh hi hm hr hidle hw hslot hindex hbuf hpwb hrefused hstray
    have refused : (f.assembler.headerVerdict (f.rawWrite w q a.toNat data)).needsEntry = false ∧
        (f.tapped w q a.toNat data).takeRawWrite (f.rawWrite w q a.toNat data) =
          ((f.tapped w q a.toNat data).submit kind subject (some q) code).strayWords (f.rawWrite w q a.toNat data) := by
      obtain ⟨h, rfl, rfl, rfl⟩ | ⟨h0, low, high, rest, hd, h⟩ := hrefused
      · have bad (x : Assembler) : x.headerVerdict (f.rawWrite w q a.toNat data) = .bad .partialHeader :=
          Assembler.headerVerdict_partial (by rw [hindex] at h; exact h)
        exact ⟨by rw [bad]; rfl, State.takeRawWrite_bad (bad _)⟩
      · have at0 : (f.rawWrite w q a.toNat data).index = 0 := hindex.symm.trans h0
        obtain ⟨h, rfl, rfl, rfl⟩ | ⟨h, hn, rfl, rfl, x, hx, hle⟩ := h
        · have bad (x : Assembler) := Assembler.headerVerdict_range (a := x) at0 hd h
          exact ⟨by rw [bad]; rfl, State.takeRawWrite_bad (bad _)⟩
        · have rewind := Assembler.headerVerdict_rewind at0 hd h hn hx hle
          rw [hslot]
          exact ⟨by rw [rewind]; rfl, State.takeRawWrite_rewind (s := f.tapped w q a.toNat data) rewind⟩
    rw [State.writeRow_at hf hh hi, State.decideWrite_raw hm hr hidle hw hbuf (fun h => by simp [refused.1] at h), refused.2,
      State.strayWords_eq, hpwb, hstray, hindex]
    rfl
  · intro s f g q a low high vs i w slot n hf hh hi hlen hc hr hidle hw ha hslot hindex hhigh hn hnew hother hfill hroom hbuf hg
    have note : (f.tapped w q a.toNat (low :: high :: vs)).noteScan ⟨q, a.toNat, slot, 0, low :: high :: vs⟩ n = { g with
        pwb := if w.mode = .tap then f.pwb ++ [⟨q, a.toNat, low :: high :: vs⟩] else f.pwb
        assembler := { f.assembler with newest := some n } } := by
      cases hnewest : f.assembler.newest with
      | none =>
        refine (State.noteScan_first (s := f.tapped w q a.toNat (low :: high :: vs)) _ _ hnewest).trans ?_
        rw [hg, hnewest]
        rfl
      | some m =>
        refine (State.noteScan_later (s := f.tapped w q a.toNat (low :: high :: vs)) _ _ hnewest).trans ?_
        rw [hg, hnewest]
        by_cases hgap : m + 1 < n
        · simp only [if_pos hgap]
          rfl
        · simp only [if_neg hgap]
          rfl
    have opened : (f.tapped w q a.toNat (low :: high :: vs)).openScan ⟨q, a.toNat, slot, 0, low :: high :: vs⟩ n =
        State.stageScan { g with
          pwb := if w.mode = .tap then f.pwb ++ [⟨q, a.toNat, low :: high :: vs⟩] else f.pwb
          assembler := { f.assembler with newest := some n } } slot n := by
      unfold State.openScan
      rw [note, State.closeSlot_none fun e he hf => by
        obtain ⟨h, _⟩ | ⟨_, h⟩ := hother e he
        · rw [hf] at h
          cases h
        · exact h]
      refine State.limitFilling_few ?_
      rw [State.stageScan_fillingEntries, List.length_append]
      exact Nat.succ_le_succ hfill
    have geometry : g.geometry = f.geometry := by
      rw [hg]
      split
      · rfl
      · split <;> rfl
    rw [State.writeRow_at hf hh hi, State.decideWrite_header (malformed_of_block ha (by omega) (by omega)) hr hidle hw hslot hindex
      hhigh hn hnew hroom hbuf, opened,
      State.takeWords_opened (w := ⟨q, a.toNat, slot, 0, low :: high :: vs⟩) rfl rfl rfl (geometry ▸ hc) hother]
    rfl
  · intro s f x y z o q a low high vs i w slot n hf hh hi hm hr hidle hw hslot hindex hhigh hn hnew hroom hbuf hx hy hz ho
    have note : (f.tapped w q a.toNat (low :: high :: vs)).noteScan ⟨q, a.toNat, slot, 0, low :: high :: vs⟩ n = y := by
      cases hnewest : f.assembler.newest with
      | none =>
        refine (State.noteScan_first (s := f.tapped w q a.toNat (low :: high :: vs)) _ _ hnewest).trans ?_
        rw [hy, hnewest, hx]
        rfl
      | some m =>
        refine (State.noteScan_later (s := f.tapped w q a.toNat (low :: high :: vs)) _ _ hnewest).trans ?_
        rw [hy, hnewest, hx]
        rfl
    have close : y.closeSlot slot = z := by
      have staging : y.assembler.staging = f.assembler.staging := by
        rw [← note, State.noteScan_assembler]
        rfl
      rw [hz, ← staging]
      rfl
    have opened : (f.tapped w q a.toNat (low :: high :: vs)).openScan ⟨q, a.toNat, slot, 0, low :: high :: vs⟩ n =
        o.limitFilling := by
      rw [State.openScan, note, close, ho]
      rfl
    rw [State.writeRow_at hf hh hi, State.decideWrite_header hm hr hidle hw hslot hindex hhigh hn hnew hroom hbuf, opened]
    split
    · rename_i h
      rw [State.limitFilling_many h]
      rfl
    · rename_i hfew
      have few : o.assembler.fillingEntries.length ≤ 2 := by
        by_contra! hlt
        obtain ⟨e, k, l, rest, h⟩ := exists_cons_cons_cons hlt
        exact hfew e k l rest h
      rw [State.limitFilling_few few]
      rfl
  · intro s e holed hholed
    rw [hholed, ← StagingEntry.missing_eq]
    rfl

end Sys2Proof.Machine
end

section
/-! PROOFS. The sample words of a write (R10, R11, R14, R15, R42): where they go, and the release that follows. -/

namespace Sys2Proof.Machine

/-- A FILLING entry that is not of the slot, or an entry that is not FILLING, takes no sample of it. -/
theorem StagingEntry.fillingIn_eq_false {e : StagingEntry} {slot : Nat} (h : e.state = .filling → e.slot ≠ slot) :
    e.fillingIn slot = false := by
  simpa [StagingEntry.fillingIn] using h

/-- A write into the RAW window that touches no header word: its sample words are taken. -/
theorem State.decideWrite_samples {f : State} {q : Requester} {a slot index : Nat} {data : List Word} {w : RawWindow}
    (hm : malformed a data.length = none) (hr : f.region a = .raw) (hi : f.mode ≠ .idle) (hw : f.windows.raw = some w)
    (hslot : slot = (a - w.base) / f.geometry.stride) (hindex : index = (a - w.base) % f.geometry.stride / 4) (h2 : 2 ≤ index)
    (buffer : w.mode = .tap → f.pwb.length < 32) :
    f.decideWrite q a data = ((f.tapped w q a data).takeWords ⟨q, a, slot, index, data⟩).giveAnswer .accept := by
  have write : f.rawWrite w q a data = ⟨q, a, slot, index, data⟩ := by simp [State.rawWrite, rawWriteAt, hslot, hindex]
  have none (x : Assembler) : x.headerVerdict ⟨q, a, slot, index, data⟩ = .noHeader := Assembler.headerVerdict_none h2
  rw [State.decideWrite_raw hm hr hi hw buffer (by rw [write, none]; simp [HeaderVerdict.needsEntry]), write,
    State.takeRawWrite_noHeader h2]

/-- A write of one sample word of channel `c` (R1). -/
theorem RawWrite.samples_single {w : RawWrite} {c n : Nat} {v : Word} (hi : w.index = c + 2) (hd : w.data = [v]) (hc : c < n) :
    w.samples n = [(c, v.setWidth 24)] := by
  simp [RawWrite.samples, hi, hd, hc]

/-- One word makes a well-formed transaction from any word address (R118). -/
theorem malformed_of_word {a : Nat} (ha : a % 4 = 0) : malformed a 1 = none := by
  unfold malformed
  rw [if_neg (by omega), if_neg (by omega), if_neg (by omega)]

/-- The number of STALLED sweeps. -/
theorem State.stalledCount_eq (s : State) : s.stalledCount = (s.liveSweeps.filter (fun p => p.2.state == .stalled)).length := by
  simp [State.stalledCount, State.entriesWhere]

/-- A stray mark that is clear makes no report. -/
theorem State.reportStray_none {s : State} (h : s.assembler.stray = none) : s.reportStray = s := by
  unfold State.reportStray
  rw [h]

/-- One that is set is cleared and reported. -/
theorem State.reportStray_some {s : State} {m : StrayMark} (h : s.assembler.stray = some m) :
    s.reportStray = State.submit { s with assembler := { s.assembler with stray := none } } .straySample m.address
      (some m.requester) m.count := by
  unfold State.reportStray
  rw [h]

/-- Staging as the release finds it: the entries before the first FILLING one, and those from it on (R14). -/
structure Releasable (staging front after : List StagingEntry) : Prop where
  split : staging = front ++ after
  front : ∀ k ∈ front, k.released = true ∨ k.state = .complete
  after : ∀ k l, after = k :: l → k.released = false ∧ k.state = .filling

/-- What the release makes of such staging. -/
theorem Releasable.releaseComplete {staging front after : List StagingEntry} (h : Releasable staging front after) :
    releaseComplete staging =
      (front.map (fun k => { k with released := true }) ++ after, (front.filter (fun k => !k.released)).map (·.scan)) := by
  rw [h.split]
  exact releaseComplete_split front after h.front h.after

/-- With every entry before the first FILLING one released already, nothing is released. -/
theorem State.releaseScans_idle {s : State} {front after : List StagingEntry} (h : Releasable s.assembler.staging front after)
    (hr : ∀ k ∈ front, k.released = true) : s.releaseScans = s :=
  State.releaseScans_none (by rw [h.releaseComplete]; simpa using hr)

/-- The release (R14, R15, R42): `y` is the state with the scans released and the mark clear, `u` that after STRAY_SAMPLE. -/
theorem State.releaseScans_released {s y u : State} {front after : List StagingEntry}
    (h : Releasable s.assembler.staging front after) (hr : ∃ k ∈ front, k.released = false)
    (hy : y = { s with
      assembler := { s.assembler with staging := front.map (fun k => { k with released := true }) ++ after, stray := none }
      engine := { s.engine with
        list := s.engine.list ++ (front.filter (fun k => !k.released)).map (fun k => .process k.scan) }
      sweeps := { s.sweeps with
        stallTimer := s.sweeps.stallTimer.map (fun _ => s.sweeps.stallPeriod)
        table := s.sweeps.table.map (Option.map Sweep.resume) } })
    (clear : s.assembler.stray = none → u = y)
    (set : ∀ m, s.assembler.stray = some m → u = y.submit .straySample m.address (some m.requester) m.count) :
    s.releaseScans = if s.stalledCount = 0 then u else u.submit .streamResumed 0 none s.stalledCount := by
  have some : (releaseComplete s.assembler.staging).2 ≠ [] := by
    rw [h.releaseComplete]
    simpa using hr
  have released : s.released = { y with assembler := { y.assembler with stray := s.assembler.stray } } := by
    unfold State.released
    simp only [h.releaseComplete, List.map_map]
    rw [hy]
    rfl
  have reported : s.released.reportStray = u := by
    cases hs : s.assembler.stray with
    | none =>
      rw [State.reportStray_none (s := s.released) hs, clear hs, released, hs, hy]
    | some m =>
      rw [State.reportStray_some (s := s.released) hs, set m hs, released, hy]
  rw [State.releaseScans_some some, reported]

/-- A sample of a slot without a FILLING entry is a stray. -/
theorem takeSample_stray {c slot : Nat} {staging : List StagingEntry} (x : Nat × RawSample)
    (h : ∀ y ∈ staging, y.fillingIn slot = false) : takeSample c slot staging x = (staging, true) := by
  unfold takeSample
  rw [if_neg (by simpa using h)]

/-- One sample word is taken by itself. -/
theorem takeSamples_single (c slot : Nat) (staging : List StagingEntry) (x : Nat × RawSample) :
    takeSamples c slot staging [x] = takeSample c slot staging x := by
  simp [takeSamples]

/-- A sample that leaves channels to receive keeps the entry FILLING. -/
theorem StagingEntry.take_filling {e : StagingEntry} {n c : Nat} {v : RawSample} (he : e.state = .filling)
    (h : (insertSample c v e.samples).length ≠ n) : e.take n (c, v) = { e with samples := insertSample c v e.samples } := by
  unfold StagingEntry.take
  simp only [if_neg h, ← he]

/-- The last channel completes the entry. -/
theorem StagingEntry.take_complete {e : StagingEntry} {n c : Nat} {v : RawSample}
    (h : (insertSample c v e.samples).length = n) :
    e.take n (c, v) = { e with samples := insertSample c v e.samples, state := .complete } := by
  unfold StagingEntry.take
  simp only [if_pos h]

/-- Entries that are released already are left as they are by a release. -/
theorem map_released_of_released {l : List StagingEntry} (h : ∀ k ∈ l, k.released = true) :
    l.map (fun k => { k with released := true }) = l :=
  (List.map_congr_left fun k hk => by rw [← h k hk]).trans (List.map_id' l)

/-- The entries of a release that begins with `e`: those before it are released already, it and those after it are not. -/
theorem released_from {before ready : List StagingEntry} {e : StagingEntry} (hb : ∀ k ∈ before, k.released = true)
    (he : e.released = false) (hr : ∀ k ∈ ready, k.released = false) :
    (before ++ e :: ready).map (fun k => { k with released := true }) =
        before ++ { e with released := true } :: ready.map (fun k => { k with released := true }) ∧
      (before ++ e :: ready).filter (fun k => !k.released) = e :: ready := by
  have fresh : before.filter (fun k => !k.released) = [] := by simpa using hb
  have readies : ready.filter (fun k => !k.released) = ready := List.filter_eq_self.mpr fun k hk => by simp [hr k hk]
  constructor
  · rw [List.map_append, map_released_of_released hb, List.map_cons]
  · rw [List.filter_append, fresh, List.filter_cons_of_pos (by simp [he]), readies, List.nil_append]

/-! ### One sample word -/

/-- Staging in which `e` takes the samples of a slot: it is FILLING in it, every entry before it is released, and none after it is
FILLING in it. -/
structure Fills (slot : Nat) (before : List StagingEntry) (e : StagingEntry) (after : List StagingEntry) : Prop where
  earlier : ∀ k ∈ before, k.released = true ∧ k.state = .complete
  filling : e.state = .filling
  ofSlot : e.slot = slot
  fresh : e.released = false
  others : ∀ k ∈ after, k.state = .filling → k.slot ≠ slot

/-- Such an entry takes the sample. -/
theorem Fills.takeSamples {slot n : Nat} {before after : List StagingEntry} {e : StagingEntry} (h : Fills slot before e after)
    (x : Nat × RawSample) : takeSamples n slot (before ++ e :: after) [x] = (before ++ e.take n x :: after, false) := by
  rw [takeSamples_single]
  exact takeSample_at x (fun y hy => StagingEntry.fillingIn_eq_false (by rw [(h.earlier y hy).2]; nofun))
    (by simp [StagingEntry.fillingIn, h.filling, h.ofSlot]) (fun y hy => StagingEntry.fillingIn_eq_false (h.others y hy))

/-- One sample word into a slot without a FILLING entry, with nothing to release: the stray mark alone changes. -/
theorem State.takeWords_stray {s : State} {w : RawWrite} {x : Nat × RawSample} (hx : w.samples s.geometry.c = [x])
    (other : ∀ e ∈ s.assembler.staging, e.state = .filling → e.slot ≠ w.slot)
    (quiet : ∀ e ∈ s.assembler.staging, e.released = true ∨ e.state = .filling) :
    s.takeWords w = { s with assembler := s.assembler.strayWrite w } := by
  have taken := takeSamples_single s.geometry.c w.slot s.assembler.staging x
  rw [takeSample_stray x fun y hy => StagingEntry.fillingIn_eq_false (other y hy), ← hx] at taken
  have words : s.wordsTaken w = { s with assembler := s.assembler.strayWrite w } := State.wordsTaken_eq taken
  rw [State.takeWords_eq, words]
  exact State.releaseScans_none (releaseComplete_none _ quiet)

/-- One sample word into a scan that still misses channels after it. -/
theorem State.takeWords_joined {s : State} {w : RawWrite} {c : Nat} {v : RawSample} {before after : List StagingEntry}
    {e : StagingEntry} (hx : w.samples s.geometry.c = [(c, v)]) (hs : s.assembler.staging = before ++ e :: after)
    (h : Fills w.slot before e after) (miss : (insertSample c v e.samples).length ≠ s.geometry.c) :
    s.takeWords w = { s with assembler := { s.assembler with
      staging := before ++ { e with samples := insertSample c v e.samples } :: after } } := by
  have taken := h.takeSamples (n := s.geometry.c) (c, v)
  rw [← hs, ← hx, StagingEntry.take_filling h.filling miss] at taken
  have words := State.wordsTaken_eq taken
  have releasable : Releasable (before ++ { e with samples := insertSample c v e.samples } :: after) before
      ({ e with samples := insertSample c v e.samples } :: after) :=
    ⟨rfl, fun k hk => .inl (h.earlier k hk).1, fun k l hl => by
      obtain ⟨rfl, rfl⟩ := List.cons.inj hl
      exact ⟨h.fresh, h.filling⟩⟩
  rw [State.takeWords_eq, words]
  exact State.releaseScans_idle releasable fun k hk => (h.earlier k hk).1

/-- One sample word that completes a scan with every lower scan released: that scan and the COMPLETE ones of `ready` after it, up to the
first FILLING one, are released. -/
theorem State.takeWords_completed {s y u : State} {w : RawWrite} {c : Nat} {v : RawSample} {before ready after : List StagingEntry}
    {e : StagingEntry} (hx : w.samples s.geometry.c = [(c, v)]) (hs : s.assembler.staging = before ++ e :: (ready ++ after))
    (h : Fills w.slot before e (ready ++ after)) (last : (insertSample c v e.samples).length = s.geometry.c)
    (hready : ∀ k ∈ ready, k.released = false ∧ k.state = .complete)
    (head : ∀ k l, after = k :: l → k.state = .filling ∧ k.released = false)
    (hy : y = { s with
      assembler := { s.assembler with
        staging := before ++ { e with samples := insertSample c v e.samples, state := .complete, released := true } ::
          (ready.map (fun k => { k with released := true }) ++ after)
        stray := none }
      engine := { s.engine with list := s.engine.list ++ .process e.scan :: ready.map (fun k => .process k.scan) }
      sweeps := { s.sweeps with
        stallTimer := s.sweeps.stallTimer.map (fun _ => s.sweeps.stallPeriod)
        table := s.sweeps.table.map (Option.map Sweep.resume) } })
    (clear : s.assembler.stray = none → u = y)
    (set : ∀ m, s.assembler.stray = some m → u = y.submit .straySample m.address (some m.requester) m.count) :
    s.takeWords w = if s.stalledCount = 0 then u else u.submit .streamResumed 0 none s.stalledCount := by
  have taken := h.takeSamples (n := s.geometry.c) (c, v)
  obtain ⟨e', he'⟩ : ∃ e', e' = { e with samples := insertSample c v e.samples, state := .complete } := ⟨_, rfl⟩
  rw [← hs, ← hx, StagingEntry.take_complete last, ← he'] at taken
  have words : s.wordsTaken w = { s with assembler := { s.assembler with staging := before ++ e' :: (ready ++ after) } } :=
    State.wordsTaken_eq taken
  have fresh : e'.released = false := he' ▸ h.fresh
  have releasable : Releasable (before ++ e' :: (ready ++ after)) (before ++ e' :: ready) after := by
    refine ⟨by simp, fun k hk => ?_, fun k l hl => ⟨(head k l hl).2, (head k l hl).1⟩⟩
    obtain hk | hk | hk := by simpa using hk
    · exact .inl (h.earlier k hk).1
    · exact .inr (by rw [hk, he'])
    · exact .inr (hready k hk).2
  obtain ⟨hmap, hfilter⟩ := released_from (fun k hk => (h.earlier k hk).1) fresh (fun k hk => (hready k hk).1)
  rw [State.takeWords_eq, words]
  refine State.releaseScans_released (y := y) releasable ⟨e', by simp, fresh⟩ ?_ clear set
  rw [hy, hmap, hfilter, he', List.append_assoc, List.cons_append]
  rfl

/-- Settles O17: a write that touches no header word is `takeWords`, whose forms for one word and for any number are those above. -/
theorem sampleTaken : Obligations.SampleTaken := by
  refine ⟨?_, ?_, ?_, ?_⟩
  · intro s f q a v i w slot c pwb hf hh hi hr hidle hw ha hslot hindex hc hbuf hpwb
    have tapped : f.tapped w q a.toNat [v] = { f with pwb := pwb } := by
      rw [hpwb]
      rfl
    have samples : (RawWrite.mk q a.toNat slot (c + 2) [v]).samples f.geometry.c = [(c, v.setWidth 24)] :=
      RawWrite.samples_single rfl rfl hc
    rw [State.writeRow_at hf hh hi, State.decideWrite_samples (malformed_of_word ha) hr hidle hw hslot hindex.symm (by omega) hbuf,
      tapped]
    refine ⟨?_, ?_, ?_⟩
    · intro hother hquiet
      rw [State.takeWords_stray (s := { f with pwb := pwb }) samples hother hquiet]
      rfl
    · intro e before after hstaging he hslot' hrel hbefore hafter hmiss
      rw [State.takeWords_joined (s := { f with pwb := pwb }) samples hstaging ⟨hbefore, he, hslot', hrel, hafter⟩ hmiss]
      rfl
    · intro e before ready after n x y z hstaging he hslot' hrel hbefore hready hhead hafter hlast hn hx hy hz
      have hothers : ∀ k ∈ ready ++ after, k.state = .filling → k.slot ≠ slot := by
        intro k hk
        obtain hk | hk := List.mem_append.mp hk
        · rw [(hready k hk).2]
          nofun
        · exact hafter k hk
      have stalled : ({ f with pwb := pwb } : State).stalledCount = n := (State.stalledCount_eq _).trans hn.symm
      rw [State.takeWords_completed (s := { f with pwb := pwb }) (u := y) samples hstaging ⟨hbefore, he, hslot', hrel, hothers⟩ hlast
        hready hhead hx, stalled, hz]
      · rfl
      · intro h
        exact hy.trans (by rw [show f.assembler.stray = none from h])
      · intro k h
        exact hy.trans (by rw [show f.assembler.stray = some k from h])
  · intro s f q a data i w slot index hf hh hi hm hr hidle hw hslot hindex h2 hbuf
    rw [State.writeRow_at hf hh hi, State.decideWrite_samples hm hr hidle hw hslot hindex h2 hbuf]
    rfl
  · intro s x y u v w c n taken staging front after stray hc htaken hfold hx hsplit hfront hafter hn hy hu hv
    have words : s.wordsTaken w = x := by
      have samples : w.samples s.geometry.c = taken := by
        rw [htaken, hc]
        rfl
      rw [takeSamples_foldl, Bool.false_or, hc, ← samples] at hfold
      rw [State.wordsTaken_eq hfold.symm, hx]
      rfl
    have releasable : Releasable x.assembler.staging front after := ⟨by rw [hx]; exact hsplit, hfront, hafter⟩
    have stalled : x.stalledCount = n := by
      rw [State.stalledCount_eq, hn, hx]
      rfl
    rw [State.takeWords_eq, words]
    refine ⟨State.releaseScans_idle releasable, fun some => ?_⟩
    rw [State.releaseScans_released (u := u) releasable some rfl, stalled, hv]
    · intro h
      rw [hu, h, hy, hx]
      rfl
    · intro m h
      rw [hu, h, hy, hx]
      rfl
  · exact fun c v l => ⟨insertSample_lookup c v l, fun d hd => insertSample_lookup_ne c v d hd l, insertSample_sorted c v l⟩

end Sys2Proof.Machine
end

section
/-! PROOFS. How the Correlation Engine serves one sweep (R27 to R35, R61): one lemma for each way on, for the beginning of a PROCESS item
and for the answers to its transfers alike. -/

namespace Sys2Proof.Machine

/-! ### The scan in hand -/

theorem State.stagedScan_eq {s : State} {t : Nat} {scan : StagingEntry}
    (h : s.assembler.staging.find? (fun e => e.released && e.scan == t) = some scan) : s.stagedScan t = scan := by
  simp [State.stagedScan, h]

theorem StagingEntry.isHoled_iff (e : StagingEntry) (c : Nat) : e.isHoled c = true ↔ c ∈ e.holed := by
  simp [StagingEntry.isHoled]

theorem StagingEntry.isHoled_eq_false (e : StagingEntry) (c : Nat) : e.isHoled c = false ↔ c ∉ e.holed := by
  simp [StagingEntry.isHoled]

/-- Channels that are all holed are all marked (R29). -/
theorem splitHoled_all {e : StagingEntry} : ∀ {cs : List Nat}, (∀ c ∈ cs, c ∈ e.holed) → splitHoled e cs = (cs, none)
  | [], _ => rfl
  | c :: cs, h => by
    have hc := (e.isHoled_iff c).mpr (h c List.mem_cons_self)
    have ih := splitHoled_all (fun x hx => h x (List.mem_cons_of_mem c hx))
    simp [splitHoled, hc, ih]

/-- The holed channels before one that has a sample are marked (R27, R29). -/
theorem splitHoled_next {e : StagingEntry} {channel : Nat} {after : List Nat} (hn : channel ∉ e.holed) :
    ∀ {holed : List Nat}, (∀ c ∈ holed, c ∈ e.holed) → splitHoled e (holed ++ channel :: after) = (holed, some channel)
  | [], _ => by
    have hc := (e.isHoled_eq_false channel).mpr hn
    simp [splitHoled, hc]
  | c :: cs, h => by
    have hc := (e.isHoled_iff c).mpr (h c List.mem_cons_self)
    have ih := splitHoled_next (after := after) hn (fun x hx => h x (List.mem_cons_of_mem c hx))
    simp [splitHoled, hc, ih]

/-! ### The reads of a sweep and its end (R32, R33, R35) -/

/-- The pilot read that begins at a word (R33, R137). -/
theorem State.issuePilot_eq {s : State} {t e first next d a n tag : Nat} {w : Sweep} {got : List PilotSample} (htag : w.tag = tag)
    (hd : t - w.start = d) (ha : s.pilotBase e w + 4 * next = a)
    (hn : min (min (w.length - 1) d / 2 + 1 - next) (16 - a / 4 % 16) = n) :
    s.issuePilot t e w first next got =
      s.issueEngine ⟨e, tag, false, .process t (.pilot first (next + n) got)⟩ (.read a n) := by
  subst htag hd ha hn
  rfl

/-- The read of the piece of a channel that begins at a lag (R32, R137). -/
theorem State.issueAccumulate_eq {s : State} {t e first channel lag d n : Nat} {w : Sweep} {pilot : List PilotSample}
    (hd : t - w.start = d) (hn : min (min (w.lags - 1) d + 1 - lag) (8 - (channel * s.geometry.kMax + lag) % 8) = n) :
    s.issueAccumulate t e w first pilot channel lag =
      s.issueEngine ⟨e, w.tag, false, .process t (.accumulateRead first pilot channel lag n)⟩
        (.read (s.areaBase e + 8 * (channel * s.geometry.kMax + lag)) (2 * n)) := by
  subst hd hn
  rfl

/-- A sweep that has been served leaves at the window's end (R35). -/
theorem State.finishSweep_eq {s : State} {t e last : Nat} {w v : Sweep} (hv : { w with lastScan := some t } = v)
    (hl : w.start + w.length + w.lags - 2 = last) : s.finishSweep t e w =
      if t = last then (s.setSweep e (some v)).leaveCorrelation e (if w.gapped = true then .gapped else .stacked)
      else s.setSweep e (some v) := by
  subst hv hl
  rfl

/-! ### The channels of a sweep (R27, R29, R35) -/

/-- A channel that has a sample: its accumulation begins at the lowest lag that the scan touches. -/
theorem State.serveChannels_reads {s : State} {t e d first channel low n : Nat} {w : Sweep} {pilot : List PilotSample}
    {channels holed after : List Nat} {scan : StagingEntry} (hs : s.stagedScan t = scan) (hc : channels = holed ++ channel :: after)
    (hh : ∀ c ∈ holed, c ∈ scan.holed) (hn : channel ∉ scan.holed) (hd : t - w.start = d) (hlow : d + 1 - w.length = low)
    (hpiece : min (min (w.lags - 1) d + 1 - low) (8 - (channel * s.geometry.kMax + low) % 8) = n) :
    s.serveChannels t e w first pilot channels = (true, State.issueEngine
      (s.setSweep e (some { w with holedSet := insertChannels holed w.holedSet }))
      ⟨e, w.tag, false, .process t (.accumulateRead first pilot channel low n)⟩
      (.read (s.areaBase e + 8 * (channel * s.geometry.kMax + low)) (2 * n))) := by
  subst hd hlow hpiece
  unfold State.serveChannels
  rw [hs, hc, splitHoled_next hn hh]
  rfl

/-- With no channel left that has a sample the sweep has been served. -/
theorem State.serveChannels_end {s : State} {t e : Nat} {w : Sweep} {first : Nat} {pilot : List PilotSample}
    {channels : List Nat} {scan : StagingEntry} (hs : s.stagedScan t = scan) (hh : ∀ c ∈ channels, c ∈ scan.holed) :
    s.serveChannels t e w first pilot channels =
      (false, s.finishSweep t e { w with holedSet := insertChannels channels w.holedSet }) := by
  unfold State.serveChannels
  rw [hs, splitHoled_all hh]

/-- The pilot is read when an active channel has a sample (R33). -/
theorem State.servePilot_read {s : State} {t e : Nat} {w : Sweep} {scan : StagingEntry} (hs : s.stagedScan t = scan)
    (h : ∃ c ∈ w.activeSet.getD [], c ∉ scan.holed) :
    s.servePilot t e w =
      (true, s.issuePilot t e w (2 * w.firstPilotWord (t - w.start)) (w.firstPilotWord (t - w.start)) []) := by
  unfold State.servePilot
  rw [hs]
  exact if_pos (by simpa [Sweep.active, StagingEntry.isHoled] using h)

/-- Otherwise the sweep has been served. -/
theorem State.servePilot_end {s : State} {t e : Nat} {w : Sweep} {scan : StagingEntry} (hs : s.stagedScan t = scan)
    (h : ∀ c ∈ w.activeSet.getD [], c ∈ scan.holed) :
    s.servePilot t e w =
      (false, s.finishSweep t e { w with holedSet := insertChannels (w.activeSet.getD []) w.holedSet }) := by
  unfold State.servePilot
  rw [hs, if_neg (by simpa [Sweep.active, StagingEntry.isHoled] using h)]
  exact State.serveChannels_end hs h

/-- A CAPTURED sweep within its first L scans has its aux sample captured (R61). -/
theorem State.serveCapture_capture {s : State} {t e aux d tag : Nat} {w : Sweep} {v : PilotSample} (hp : w.pilot = .captured aux)
    (hd : t - w.start = d) (hlt : d < w.length) (htag : w.tag = tag) (hv : s.capturedSample t aux = v) :
    s.serveCapture t e w = (true, State.issueEngine
      (s.setSweep e (some { w with heldSample := if d % 2 = 0 then v else 0 })) ⟨e, tag, false, .process t .capture⟩
      (.write (s.areaBase e + s.geometry.tableSize + 4 * (d / 2))
        [if d % 2 = 0 then sampleWord v 0 else sampleWord w.heldSample v])) := by
  subst hd htag hv
  unfold State.serveCapture
  simp only [hp, if_pos hlt]

/-- Every other sweep goes on to its pilot. -/
theorem State.serveCapture_pass {s : State} {t e : Nat} {w : Sweep} (h : ∀ aux, w.pilot = .captured aux → w.length ≤ t - w.start) :
    s.serveCapture t e w = s.servePilot t e w := by
  unfold State.serveCapture
  cases hp : w.pilot with
  | stored id => rfl
  | captured aux => exact if_neg (Nat.not_lt.mpr (h aux hp))

theorem State.setSweep_setSweep (s : State) (e : Nat) (v w : Option Sweep) : (s.setSweep e v).setSweep e w = s.setSweep e w := by
  unfold State.setSweep
  simp only [List.set_set]

/-- A channel is in a set after others join when it joins or was there. -/
theorem mem_insertChannel (c x : Nat) : ∀ set : List Nat, x ∈ insertChannel c set ↔ x = c ∨ x ∈ set
  | [] => by simp [insertChannel]
  | d :: rest => by
    have ih := mem_insertChannel c x rest
    unfold insertChannel
    split_ifs with h1 h2
    · simp
    · simp [h2]
    · simp only [List.mem_cons, ih]
      tauto

theorem mem_insertChannels (c : Nat) : ∀ cs set : List Nat, c ∈ insertChannels cs set ↔ c ∈ cs ∨ c ∈ set
  | [], set => by simp [insertChannels]
  | x :: cs, set => by
    have ih := mem_insertChannels c cs (insertChannel x set)
    rw [mem_insertChannel] at ih
    refine ih.trans ?_
    simp only [List.mem_cons]
    tauto

end Sys2Proof.Machine
end

section
/-! PROOFS. How a PROCESS item begins (R27 to R35, R61): the walk to the first sweep that the scan reaches, and what the scan finds
that sweep to be. -/

namespace Sys2Proof.Machine

/-! ### The walk over the Sweep Table -/

/-- The live sweeps are the entries of the table. -/
theorem State.mem_liveSweeps {m : State} {e : Nat} {w : Sweep} : (e, w) ∈ m.liveSweeps ↔ m.sweeps.table[e]? = some (some w) := by
  simp [State.liveSweeps, List.mem_zipIdx_iff_getElem?]

/-- Entries whose sweeps the scan does not reach are passed over, one after the other. -/
theorem State.serveFrom_pass {m : State} {t : Nat} (entries : List Nat) : ∀ before : List Nat,
    (∀ p ∈ m.liveSweeps, p.1 ∈ before → p.2.state = .noticed ∨ p.2.state = .correlating ∨ p.2.state = .stalled → t < p.2.start) →
    State.serveFrom t (before ++ entries) m = State.serveFrom t entries m
  | [], _ => rfl
  | e :: before, h => by
    have skip := State.serveFrom_skip t e (before ++ entries) m
      (fun w hw => h (e, w) (State.mem_liveSweeps.mpr hw) List.mem_cons_self)
    have ih := State.serveFrom_pass entries before (fun p hp hb => h p hp (List.mem_cons_of_mem e hb))
    exact skip.trans ih

/-- The entries before one of them in the order of the table have smaller indexes. -/
theorem lt_of_range_split {n e : Nat} {before entries : List Nat} (h : List.range n = before ++ e :: entries) {x : Nat}
    (hx : x ∈ before) : x < e := by
  have sorted : (before ++ e :: entries).Pairwise (· < ·) := h ▸ List.pairwise_lt_range
  exact (List.pairwise_append.mp sorted).2.2 x hx e List.mem_cons_self

/-- PROCESS_SCAN takes the item at the head of the list and goes through the table. -/
theorem State.processScan_at {s m : State} {t : Nat} {rest : List EngineItem} (hm : m = s.caughtUp)
    (he : m.engine = ⟨.process t :: rest, none⟩) :
    exec .processScan s = .next (State.settle (State.serveFrom t (List.range 24) { m with engine := ⟨rest, none⟩ })) := by
  have due : m.processScanDue = true := by simp [State.processScanDue, he]
  have taken : m.takeProcess = State.serveFrom t (List.range 24) { m with engine := ⟨rest, none⟩ } := by
    unfold State.takeProcess
    rw [he]
    rfl
  rw [← taken]
  exact State.laterEvent_at hm due

/-! ### The sweep that the scan reaches (R28, R34) -/

theorem Sweep.missesBefore_iff (w : Sweep) (t : Nat) : w.missesBefore t = true ↔
    (w.state = .noticed ∧ w.start < t) ∨ (w.state ≠ .noticed ∧ ∃ n, w.lastScan = some n ∧ n + 1 < t) := by
  unfold Sweep.missesBefore
  cases w.state <;> cases w.lastScan <;> simp

/-- The gap check marks the sweep when scans are missing (R34). -/
theorem Sweep.gapCheck_eq (w : Sweep) (t : Nat)
    [Decidable ((w.state = .noticed ∧ w.start < t) ∨ (w.state ≠ .noticed ∧ ∃ n, w.lastScan = some n ∧ n + 1 < t))] : w.gapCheck t =
    if (w.state = .noticed ∧ w.start < t) ∨ (w.state ≠ .noticed ∧ ∃ n, w.lastScan = some n ∧ n + 1 < t)
    then { w with gapped := true, heldSample := 0 } else w := by
  unfold Sweep.gapCheck
  simp only [Sweep.missesBefore_iff]

/-- The sweep that a scan serves: gapped when scans are missing, its sets fixed when it was NOTICED. -/
def State.metBy (m : State) (t : Nat) (w : Sweep) : Sweep :=
  if (w.gapCheck t).state = .noticed then m.fixSets (w.gapCheck t) else w.gapCheck t

/-- The same within the window, where a NOTICED sweep starts correlating (R28). -/
def State.servedBy (m : State) (t : Nat) (w : Sweep) : Sweep :=
  if (w.gapCheck t).state = .noticed then { m.fixSets (w.gapCheck t) with state := .correlating } else w.gapCheck t

/-- The gap check leaves the sweep's state and what its command fixed. -/
theorem Sweep.gapCheck_kept (w : Sweep) (t : Nat) : (w.gapCheck t).state = w.state ∧ (w.gapCheck t).windowEnd = w.windowEnd := by
  unfold Sweep.gapCheck
  split <;> exact ⟨rfl, rfl⟩

/-- A scan beyond the window's end adds nothing, and the sweep leaves (R34, R35). -/
theorem State.serveSweep_beyond {m : State} {t e : Nat} {w : Sweep} (h : w.windowEnd < t) :
    m.serveSweep t e w = (false, (m.setSweep e (some (m.metBy t w))).leaveCorrelation e (m.metBy t w).windowOutcome) :=
  if_pos ((w.gapCheck_kept t).2.symm ▸ h)

/-- A scan within the window serves the sweep. -/
theorem State.serveSweep_within {m : State} {t e : Nat} {w : Sweep} (h : t ≤ w.windowEnd) :
    m.serveSweep t e w = (m.setSweep e (some (m.servedBy t w))).serveCapture t e (m.servedBy t w) :=
  if_neg ((w.gapCheck_kept t).2.symm ▸ Nat.not_lt.mpr h)

/-- What the command fixed stays through the beginning of a scan. -/
theorem State.servedBy_kept (m : State) (t : Nat) (w : Sweep) :
    (m.servedBy t w).tag = w.tag ∧ (m.servedBy t w).start = w.start ∧ (m.servedBy t w).pilot = w.pilot ∧
      (m.servedBy t w).length = w.length ∧ (m.servedBy t w).lags = w.lags := by
  unfold State.servedBy Sweep.gapCheck
  split <;> split <;> exact ⟨rfl, rfl, rfl, rfl, rfl⟩

/-- The starting set does not depend on what the gap check marks. -/
theorem State.startingSet_gapCheck (m : State) (w : Sweep) (t : Nat) : m.startingSet (w.gapCheck t) = m.startingSet w := by
  unfold Sweep.gapCheck
  split <;> rfl

theorem State.fixSets_gapCheck (m : State) (w : Sweep) (t : Nat) : m.fixSets (w.gapCheck t) =
    { w.gapCheck t with startingSet := some (m.startingSet w), activeSet := some (m.startingSet w) } := by
  unfold State.fixSets
  rw [State.startingSet_gapCheck]

/-! ### One entry of the walk -/

/-- A sweep that waits for a transfer ends the walk. -/
theorem State.serveFrom_waits {m y : State} {t e : Nat} {entries : List Nat} {w : Sweep} (hw : m.sweeps.table[e]? = some (some w))
    (hs : w.state = .noticed ∨ w.state = .correlating ∨ w.state = .stalled) (ht : w.start ≤ t) (hy : m.serveSweep t e w = (true, y)) :
    State.serveFrom t (e :: entries) m = y := by
  rw [State.serveFrom_reached t e entries m w hw hs ht, hy]

/-- One that has been served lets it go on. -/
theorem State.serveFrom_served {m y : State} {t e : Nat} {entries : List Nat} {w : Sweep} (hw : m.sweeps.table[e]? = some (some w))
    (hs : w.state = .noticed ∨ w.state = .correlating ∨ w.state = .stalled) (ht : w.start ≤ t) (hy : m.serveSweep t e w = (false, y)) :
    State.serveFrom t (e :: entries) m = State.serveFrom t entries y := by
  rw [State.serveFrom_reached t e entries m w hw hs ht, hy]

/-! ### The obligation -/

/-- Settles O25: the walk passes over the sweeps that the scan does not reach, and the sweep that it reaches is served within its
window, or leaves beyond it. -/
theorem processScanBegins : Obligations.ProcessScanBegins := by
  unfold Obligations.ProcessScanBegins
  refine ⟨?_, ?_, fun m t => State.serveFrom_nil t m, ?_, ?_, ?_⟩
  · intro s m t rest hm he hunreached
    have walk := State.serveFrom_pass (m := { m with engine := ⟨rest, none⟩ }) [] (List.range 24) (fun p hp _ => hunreached p hp)
    rw [State.processScan_at hm he, ← List.append_nil (List.range 24), walk, State.serveFrom_nil]
  · intro s m t e before entries rest hm he hsplit hunreached
    have walk := State.serveFrom_pass (m := { m with engine := ⟨rest, none⟩ }) (e :: entries) before
      (fun p hp hb => hunreached p hp (lt_of_range_split hsplit hb))
    rw [State.processScan_at hm he, hsplit, walk]
  · exact fun m t e entries h => State.serveFrom_skip t e entries m h
  · intro m x t d e w g u set entries scan hw hs ht hend hd hscan hg hset hu hx
    have served : m.servedBy t w = u := by
      have gap : w.gapCheck t = g := by
        rw [hg]
        exact w.gapCheck_eq t
      rw [hu, hset, State.servedBy, (w.gapCheck_kept t).1, State.fixSets_gapCheck, gap]
      rfl
    replace hx : x = m.setSweep e (some u) := hx
    obtain ⟨tag, start, pilot, length, lags⟩ := served ▸ m.servedBy_kept t w
    have begins : m.serveSweep t e w = x.serveCapture t e u := by
      rw [State.serveSweep_within hend, served, hx]
    have staged : x.stagedScan t = scan := State.stagedScan_eq (by rw [hx]; exact hscan)
    have pass : (∀ aux, w.pilot = .captured aux → w.length ≤ d) → x.serveCapture t e u = x.servePilot t e u := by
      intro h
      refine State.serveCapture_pass fun aux ha => ?_
      rw [length, start, ← hd]
      exact h aux (pilot ▸ ha)
    refine ⟨?_, ?_, ?_⟩
    · intro aux v hp hlt hv
      have sample : x.capturedSample t aux = v := by
        unfold State.capturedSample
        rw [staged, hv]
        by_cases h : aux ∈ scan.holed
        · simp [h, (scan.isHoled_iff aux).mpr h]
        · simp [h, (scan.isHoled_eq_false aux).mpr h, StagingEntry.sample]
      refine State.serveFrom_waits hw hs ht ?_
      rw [begins, State.serveCapture_capture (pilot.trans hp) (start ▸ hd.symm) (length ▸ hlt) tag sample, hx, State.setSweep_setSweep]
      rfl
    · intro base first a n hp hc hbase hfirst ha hn
      refine State.serveFrom_waits hw hs ht ?_
      rw [begins, pass hp, State.servePilot_read staged hc]
      have at_base : x.pilotBase e u = base := by
        unfold State.pilotBase
        rw [hbase, pilot, hx]
        cases w.pilot <;> rfl
      have word : u.firstPilotWord (t - u.start) = first := by rw [hfirst, Sweep.firstPilotWord, lags, start, hd]
      rw [word, State.issuePilot_eq (a := a) (n := n) tag (start ▸ hd.symm) (by rw [at_base, ha]) (by rw [length, hn]), hx]
      rfl
    · intro v y hp hc hv hy
      refine State.serveFrom_served hw hs ht ?_
      rw [begins, pass hp, State.servePilot_end staged hc, State.finishSweep_eq hv.symm (last := w.start + w.length + w.lags - 2)
        (by rw [← start, ← length, ← lags]), hx, State.setSweep_setSweep, hy, hx]
      rfl
  · intro m x t e w u set entries hw hs ht hend hset hu hx
    have met : m.metBy t w = u := by
      have starting : m.startingSet w = set := hset.symm
      rw [hu, State.metBy, (w.gapCheck_kept t).1, State.fixSets_gapCheck, starting, w.gapCheck_eq t]
      by_cases noticed : w.state = .noticed
      · by_cases late : w.start < t <;> simp [noticed, late]
      · simp [noticed]
    refine State.serveFrom_served hw hs ht ?_
    rw [State.serveSweep_beyond hend, met, hx]
    rfl

end Sys2Proof.Machine
end

section
/-! PROOFS. How the answers OK to the engine's transfers carry a sweep through a scan (R27, R31 to R33). -/

namespace Sys2Proof.Machine

/-! ### The row -/

/-- The client whose transfer is at the DRAM acts on the answer with its own side free (R139, R145). -/
theorem State.attemptAnswered_client {m : State} {c : Client} {o : Outstanding} (h : m.awaits c o) (a : DramAnswer) :
    m.attemptAnswered a = (m.answeredFor c o a).clientAnswered c (answerOk a) (m.memory.answerWords o.transfer a) := by
  obtain ⟨attempt, current, client, kept⟩ := h
  unfold State.attemptAnswered State.partAttempt Port.clientAnswered
  simp only [attempt, current, client, kept]
  rfl

theorem State.awaits.clientDue {m : State} {c : Client} {o : Outstanding} (h : m.awaits c o) : m.clientDue c = true := by
  obtain ⟨attempt, current, -, -⟩ := h
  simp [State.clientDue, attempt, current]

/-- An answer OK to a transfer of a PROCESS item serves the sweep in hand a little further. -/
theorem State.engineAnswer_process {s m x : State} {o : Outstanding} {t e tag : Nat} {w : Sweep} {phase : ProcessPhase}
    (hm : m = s.caughtUp) (ho : m.awaits .engine o) (hx : x = m.answeredFor .engine o .ok)
    (hwork : m.engine.work = some ⟨e, tag, false, .process t phase⟩) (hw : m.sweep? e = some w) :
    exec (.engineTransferAnswer .ok) s = .next (State.settle (State.serveOn t e
      (x.processAnswered t e w (m.memory.answerWords o.transfer .ok) phase))) := by
  have work : x.engine.work = some ⟨e, tag, false, .process t phase⟩ := by rw [hx]; exact hwork
  have sweep : x.sweep? e = some w := by rw [hx]; exact hw
  have answered : m.attemptAnswered .ok = State.serveOn t e (x.processAnswered t e w (m.memory.answerWords o.transfer .ok) phase) := by
    rw [State.attemptAnswered_client ho, ← hx]
    unfold State.clientAnswered State.engineAnswered
    simp [work, sweep, answerOk]
  rw [← answered]
  exact State.laterEvent_at hm ho.clientDue

/-! ### The terms of a piece (R31, R32) -/

theorem addTerms_getElem? (d first : Nat) (pilot : List PilotSample) (r : RawSample) :
    ∀ (vs : List Accumulator) (k i : Nat), (addTerms d first pilot r k vs)[i]? =
      vs[i]?.map (fun v => BitVec.ofInt 64 (v.toInt + (pilot.getD (d - (k + i) - first) 0).toInt * r.toInt))
  | [], _, _ => by simp [addTerms]
  | _ :: _, _, 0 => by simp [addTerms]
  | _ :: vs, k, i + 1 => by
    have ih := addTerms_getElem? d first pilot r vs (k + 1) i
    rw [Nat.add_assoc, Nat.add_comm 1] at ih
    simpa [addTerms] using ih

/-- The list that holds the sum of each lag is that of the terms added. -/
theorem addTerms_eq {d first lag : Nat} {pilot : List PilotSample} {r : RawSample} {read wrote : List Accumulator}
    (hlength : wrote.length = read.length) (h : ∀ i (hi : i < read.length), wrote[i]? = some (BitVec.ofInt 64
      ((read[i]'hi).toInt + (pilot.getD (d - (lag + i) - first) 0).toInt * r.toInt))) :
    addTerms d first pilot r lag read = wrote := by
  refine List.ext_getElem? fun i => ?_
  rw [addTerms_getElem?]
  by_cases hi : i < read.length
  · rw [h i hi, List.getElem?_eq_getElem hi]
    rfl
  · rw [List.getElem?_eq_none (by omega), List.getElem?_eq_none (by omega)]
    rfl

/-- The two words of a value hold it. -/
theorem highLow_eq (v : Accumulator) : (v.extractLsb' 32 32 ++ v.extractLsb' 0 32 : BitVec 64) = v := by
  have whole : (v.extractLsb' 32 32 ++ v.extractLsb' 0 32 : BitVec 64) = v.extractLsb' 0 64 :=
    BitVec.extractLsb'_append_extractLsb'_eq_extractLsb' rfl
  rw [whole, BitVec.extractLsb'_eq_self]

theorem wordsAccumulators_accumulatorsWords : ∀ values : List Accumulator, wordsAccumulators (accumulatorsWords values) = values
  | [] => rfl
  | v :: values => by
    have ih := wordsAccumulators_accumulatorsWords values
    have first := highLow_eq v
    simp only [accumulatorsWords, List.flatMap_cons, List.cons_append, List.nil_append, wordsAccumulators] at ih ⊢
    rw [ih, first]

/-! ### The pieces and the channels of a sweep -/

/-- A piece of a channel that the sweep still correlates is written back (R32). -/
theorem State.writeBack_active {s : State} {t e d first channel lag n : Nat} {w : Sweep} {pilot : List PilotSample} {words : List Word}
    {scan : StagingEntry} {wrote : List Accumulator} (hs : s.stagedScan t = scan) (hc : channel ∈ w.activeSet.getD [])
    (hd : t - w.start = d) (hv : addTerms d first pilot ((scan.samples.lookup channel).getD 0) lag (wordsAccumulators words) = wrote) :
    s.writeBack t e w first pilot channel lag n words =
      (true, s.issueEngine ⟨e, w.tag, false, .process t (.accumulateWrite first pilot channel lag n)⟩
        (.write (s.areaBase e + 8 * (channel * s.geometry.kMax + lag)) (accumulatorsWords wrote))) := by
  subst hs hd hv
  exact if_pos (by simpa [Sweep.active] using hc)

/-- The next piece of such a channel is read (R32). -/
theorem State.nextPiece_more {s : State} {t e d first channel lag n : Nat} {w : Sweep} {pilot : List PilotSample} (hd : t - w.start = d)
    (hl : lag + n ≤ min (w.lags - 1) d) (hc : channel ∈ w.activeSet.getD []) :
    s.nextPiece t e w first pilot channel lag n = (true, s.issueAccumulate t e w first pilot channel (lag + n)) := by
  subst hd
  exact if_pos (by simpa [Sweep.active, Sweep.highLag] using And.intro (le_min_iff.mp hl) hc)

/-- The phases after which the engine leaves a channel: its last piece has been written back, or a mute has taken it (R30). -/
def ProcessPhase.leavesChannel (w : Sweep) (d first : Nat) (pilot : List PilotSample) (channel lag n : Nat) (phase : ProcessPhase) :
    Prop :=
  phase = .accumulateWrite first pilot channel lag n ∧ (min (w.lags - 1) d < lag + n ∨ channel ∉ w.activeSet.getD []) ∨
    phase = .accumulateRead first pilot channel lag n ∧ channel ∉ w.activeSet.getD []

/-- The engine then goes on with the channels after it. -/
theorem State.processAnswered_leaves {s : State} {t e d first channel lag n : Nat} {w : Sweep} {pilot : List PilotSample}
    {words : List Word} {phase : ProcessPhase} (hd : t - w.start = d) (h : phase.leavesChannel w d first pilot channel lag n) :
    s.processAnswered t e w words phase =
      s.serveChannels t e w first pilot ((w.activeSet.getD []).filter (fun c => channel < c)) := by
  subst hd
  rcases h with ⟨rfl, h⟩ | ⟨rfl, h⟩
  · refine if_neg fun both => ?_
    obtain ⟨hl, hc⟩ := (Bool.and_eq_true _ _).mp both
    rcases h with h | h
    · exact Nat.not_le.mpr h (of_decide_eq_true hl)
    · exact h (List.contains_iff_mem.mp hc)
  · exact if_neg (by simpa [Sweep.active] using h)

/-- With the pilot samples read the engine goes on with the channels (R27, R33). -/
theorem State.pilotRead_done {s : State} {t e d first next : Nat} {w : Sweep} {got : List PilotSample} (hd : t - w.start = d)
    (h : min (w.length - 1) d / 2 < next) :
    s.pilotRead t e w first next got = s.serveChannels t e w first got (w.activeSet.getD []) := by
  subst hd
  exact if_neg (Nat.not_le.mpr h)

/-- Before that it reads on. -/
theorem State.pilotRead_more {s : State} {t e d first next : Nat} {w : Sweep} {got : List PilotSample} (hd : t - w.start = d)
    (h : next ≤ min (w.length - 1) d / 2) : s.pilotRead t e w first next got = (true, s.issuePilot t e w first next got) := by
  subst hd
  exact if_pos h

/-! ### The obligation -/

/-- Settles O26: each answer serves the sweep in hand to its next transfer, or ends the sweep's part of the item. -/
theorem accumulationGoesOn : Obligations.AccumulationGoesOn := by
  unfold Obligations.AccumulationGoesOn
  refine ⟨?_, wordsAccumulators_accumulatorsWords, ?_, fun cs set c => mem_insertChannels c cs set⟩
  · intro s m o t d e tag first channel lag n a k pilot w r read wrote scan hm ho hwork hw hc htransfer hd hscan hr hread hlength hwrote
    have words : m.memory.answerWords o.transfer .ok = m.memory.readWords a k := by rw [htransfer]; rfl
    have terms : addTerms d first pilot ((scan.samples.lookup channel).getD 0) lag (wordsAccumulators (m.memory.readWords a k)) =
        wrote := by
      rw [← hr, ← hread, addTerms_eq hlength hwrote]
    rw [State.engineAnswer_process hm ho rfl hwork hw, words, State.processAnswered,
      State.writeBack_active (s := m.answeredFor .engine o .ok) (State.stagedScan_eq hscan) hc hd.symm terms]
    rfl
  · intro s m x o t d e tag w scan hm ho hx hw hd hscan
    have staged : x.stagedScan t = scan := State.stagedScan_eq (by rw [hx]; exact hscan)
    have base : x.pilotBase e w = m.pilotBase e w := by rw [hx]; rfl
    have waits : ∀ {phase : ProcessPhase} {y : State}, m.engine.work = some ⟨e, tag, false, .process t phase⟩ →
        x.processAnswered t e w (m.memory.answerWords o.transfer .ok) phase = (true, y) →
        exec (.engineTransferAnswer .ok) s = .next (State.settle y) := by
      intro phase y hwork hy
      rw [State.engineAnswer_process hm ho hx hwork hw, hy]
      rfl
    refine ⟨?_, ?_, ?_, ?_, ?_, ?_⟩
    · intro first n hwork hc hfirst hn
      have word : w.firstPilotWord (t - w.start) = first := by rw [hfirst, hd, Sweep.firstPilotWord]
      have served := State.servePilot_read (e := e) staged hc
      rw [word, State.issuePilot_eq rfl hd.symm (by rw [base]) hn.symm] at served
      rw [waits hwork served, hx]
      rfl
    · intro first next n got hwork hnext hn
      have served := State.pilotRead_more (s := x) (e := e) (first := first)
        (got := got ++ (m.memory.answerWords o.transfer .ok).flatMap wordSamples) hd.symm hnext
      rw [State.issuePilot_eq rfl hd.symm (by rw [base]) hn.symm] at served
      rw [waits hwork served, hx]
      rfl
    · intro first next channel lag n got holed after hwork hnext hset hholed hc hlag hn
      have served := State.pilotRead_done (s := x) (e := e) (first := first)
        (got := got ++ (m.memory.answerWords o.transfer .ok).flatMap wordSamples) hd.symm hnext
      rw [State.serveChannels_reads staged (by rw [hset]; rfl) hholed hc hd.symm hlag.symm (n := n) (by rw [hn, hx]; rfl)] at served
      rw [waits hwork served, hx]
      rfl
    · intro first channel lag n k pilot hwork hl hc hk
      have served := State.nextPiece_more (s := x) (e := e) (first := first) (pilot := pilot) hd.symm hl hc
      rw [State.issueAccumulate_eq hd.symm (n := k) (by rw [hk, hx]; rfl)] at served
      rw [waits hwork served, hx]
      rfl
    · intro first channel lag n next low k pilot phase holed after hwork hphase hafter hholed hnext hlow hk
      have served := State.processAnswered_leaves (s := x) (e := e) (words := m.memory.answerWords o.transfer .ok) hd.symm hphase
      rw [State.serveChannels_reads staged hafter hholed hnext hd.symm hlow.symm (n := k) (by rw [hk, hx]; rfl)] at served
      rw [waits hwork served, hx]
      rfl
    · intro first channel lag n next pilot phase rest v y z hwork hphase hholed hv hy hz
      have served : x.processAnswered t e w (m.memory.answerWords o.transfer .ok) phase =
          (false, x.finishSweep t e { w with holedSet := insertChannels rest w.holedSet }) := by
        rcases hphase with ⟨rfl | ⟨rfl, hnext⟩, rfl⟩ | ⟨hphase, rfl⟩
        · exact State.servePilot_end staged hholed
        · exact (State.pilotRead_done hd.symm hnext).trans (State.serveChannels_end staged hholed)
        · exact (State.processAnswered_leaves hd.symm hphase).trans (State.serveChannels_end staged hholed)
      rw [State.engineAnswer_process hm ho hx hwork hw, served, State.finishSweep_eq hv.symm rfl, hz, hy, hx]
      rfl

end Sys2Proof.Machine
end

section
/-! PROOFS. What every operation keeps of the settings' ranges beside the base (R156, R174): the command in progress and the ring size,
one lemma `<operation>_tuning` for each operation that leaves both alone. -/

namespace Sys2Proof.Machine

/-- The command in progress and the ring size: what the settings' ranges speak of and the base does not hold. -/
def State.tuning (s : State) := (s.commands.progress, s.reports.size)

/-! ### Primitive updates -/

@[simp] theorem State.setSweep_tuning (s : State) (e : Nat) (w : Option Sweep) : (s.setSweep e w).tuning = s.tuning := rfl
@[simp] theorem State.setSlot_tuning (s : State) (i : Nat) (d : DirEntry) : (s.setSlot i d).tuning = s.tuning := rfl
@[simp] theorem State.setPilot_tuning (s : State) (i : Nat) (p : PilotEntry) : (s.setPilot i p).tuning = s.tuning := rfl
@[simp] theorem State.setChannel_tuning (s : State) (c : Nat) (x : Channel) : (s.setChannel c x).tuning = s.tuning := rfl
@[simp] theorem State.appendStackItem_tuning (s : State) (i : StackItem) : (s.appendStackItem i).tuning = s.tuning := rfl
@[simp] theorem State.present_tuning (s : State) (c : Client) (t : Transfer) : (s.present c t).tuning = s.tuning := rfl
@[simp] theorem State.setCommandSlot_tuning (s : State) (j : Nat) (c : CommandSlot) : (s.setCommandSlot j c).tuning = s.tuning := rfl
@[simp] theorem State.mapSweeps_tuning (s : State) (f : Sweep → Sweep) : (s.mapSweeps f).tuning = s.tuning := rfl
@[simp] theorem State.setDrq_tuning (s : State) (i : Nat) (e : Option DrqEntry) : (s.setDrq i e).tuning = s.tuning := rfl
@[simp] theorem State.freeDrq_tuning (s : State) (i : Nat) : (s.freeDrq i).tuning = s.tuning := rfl
@[simp] theorem State.issueEngine_tuning (s : State) (w : EngineWork) (t : Transfer) : (s.issueEngine w t).tuning = s.tuning := rfl
@[simp] theorem State.issueStack_tuning (s : State) (w : StackWork) (t : Transfer) : (s.issueStack w t).tuning = s.tuning := rfl
@[simp] theorem State.stackItemEnds_tuning (s : State) : s.stackItemEnds.tuning = s.tuning := rfl

/-- A Report Unit of the same ring size leaves both alone. -/
theorem State.reports_tuning (s : State) (r : Reports) (h : r.size = s.reports.size) :
    ({ s with reports := r } : State).tuning = s.tuning := by
  simp [State.tuning, h]

@[simp] theorem State.submit_tuning (s : State) (k : ReportKind) (n : Nat) (q : Option Requester) (x : Nat) :
    (s.submit k n q x).tuning = s.tuning := State.reports_tuning s _ (congrArg (·.1) (Reports.submit_fixed _ _ _ _ _ _))
@[simp] theorem State.partFault_tuning (s : State) (op : PartOperation) (n : Nat) : (s.partFault op n).tuning = s.tuning :=
  State.submit_tuning s _ _ _ _
@[simp] theorem State.changeMode_tuning (s : State) (m r : Mode) (c : ModeCause) : (s.changeMode m r c).tuning = s.tuning :=
  State.submit_tuning { s with mode := m, requestedMode := r } _ _ _ _
@[simp] theorem State.settle_tuning (s : State) : s.settle.tuning = s.tuning :=
  State.reports_tuning s _ (congrArg (·.1) (State.presentReport_ring s))

/-- A run of operations that each leave both alone. -/
theorem State.foldl_tuning {α : Type} (f : State → α → State) (h : ∀ s a, (f s a).tuning = s.tuning) (l : List α) :
    ∀ s : State, (l.foldl f s).tuning = s.tuning := by
  induction l with
  | nil => exact fun _ => rfl
  | cons a as ih => exact fun s => (ih (f s a)).trans (h s a)

/-! ### Sweeps, modes and channels -/

@[simp] theorem State.leaveCorrelation_tuning (s : State) (e : Nat) (o : SweepOutcome) : (s.leaveCorrelation e o).tuning = s.tuning := by
  have stop : ∀ x : State, x.stopIdleTimer.tuning = x.tuning := by
    intro x
    unfold State.stopIdleTimer
    split <;> rfl
  unfold State.leaveCorrelation
  split
  · rfl
  · rename_i w _
    refine (stop _).trans ?_
    cases w.pilot <;> rfl
@[simp] theorem State.leaveAll_tuning (s : State) (l : List Nat) (o : SweepOutcome) : (s.leaveAll l o).tuning = s.tuning :=
  State.foldl_tuning _ (fun s e => State.leaveCorrelation_tuning s e o) l s
@[simp] theorem State.enterSweep_tuning (s : State) (o : NoticeOperands) (i e : Nat) : (s.enterSweep o i e).tuning = s.tuning := by
  unfold State.enterSweep State.claimPilot
  simp only
  cases o.pilot <;> (split <;> rfl)

/-- The running Stall Timer counted, or expired (R40, R41). -/
@[simp] theorem State.tickStall_tuning (s : State) : s.tickStall.tuning = s.tuning := by
  have expire : s.stallExpire.tuning = s.tuning := by
    have aborted := State.leaveAll_tuning s (s.entriesWhere (fun w => w.state == .stalled)) .stallAborted
    unfold State.stallExpire
    simp only
    split
    · exact aborted
    · exact (State.submit_tuning _ _ _ _ _).trans aborted
  unfold State.tickStall
  repeat' split
  · rfl
  · exact expire
  · rfl

@[simp] theorem State.clearAssembler_tuning (s : State) : s.clearAssembler.tuning = s.tuning := by
  unfold State.clearAssembler State.abandonProcess
  split <;> rfl
@[simp] theorem State.enterIdle_tuning (s : State) (c : ModeCause) : (s.enterIdle c).tuning = s.tuning :=
  (State.changeMode_tuning { s.clearAssembler with sweeps := { s.clearAssembler.sweeps with stallTimer := none } } _ _ _).trans
    (State.clearAssembler_tuning s)
@[simp] theorem State.leaveAcquire_tuning (s : State) : s.leaveAcquire.tuning = s.tuning := by
  unfold State.leaveAcquire
  split <;> simp
@[simp] theorem State.applyAbort_tuning (s : State) (n : Nat) : (s.applyAbort n).tuning = s.tuning := by
  unfold State.applyAbort
  split
  · exact State.leaveAll_tuning _ _ _
  · rfl
@[simp] theorem State.channelMuted_tuning (s : State) (c : Nat) (x : ConditionCause) : (s.channelMuted c x).tuning = s.tuning :=
  State.submit_tuning s _ _ _ _
@[simp] theorem State.applyVerdict_tuning (s : State) (c l : Nat) (v : Verdict) : (s.applyVerdict c l v).tuning = s.tuning := by
  unfold State.applyVerdict State.conditionChanged
  simp only
  repeat' split
  all_goals simp

/-! ### The Scan Assembler -/

@[simp] theorem State.forceClose_tuning (s : State) (e : StagingEntry) : (s.forceClose e).tuning = s.tuning := State.submit_tuning _ _ _ _ _

@[simp] theorem State.noteScan_tuning (s : State) (w : RawWrite) (n : Nat) : (s.noteScan w n).tuning = s.tuning := by
  unfold State.noteScan
  repeat' split
  · rfl
  · exact State.submit_tuning _ _ _ _ _
  · rfl
@[simp] theorem State.openScan_tuning (s : State) (w : RawWrite) (n : Nat) : (s.openScan w n).tuning = s.tuning := by
  have close : ∀ x : State, (x.closeSlot w.slot).tuning = x.tuning := by
    intro x
    unfold State.closeSlot
    split <;> simp
  have limit : ∀ x : State, x.limitFilling.tuning = x.tuning := by
    intro x
    unfold State.limitFilling
    repeat' split
    all_goals simp
  exact (limit _).trans ((close _).trans (State.noteScan_tuning s w n))
@[simp] theorem State.takeWords_tuning (s : State) (w : RawWrite) : (s.takeWords w).tuning = s.tuning := by
  have stray : ∀ x : State, x.reportStray.tuning = x.tuning := by
    intro x
    unfold State.reportStray
    split
    · rfl
    · exact State.submit_tuning _ _ _ _ _
  rw [State.takeWords_eq]
  by_cases h : (releaseComplete (s.wordsTaken w).assembler.staging).2 = []
  · rw [State.releaseScans_none h]
    rfl
  · rw [State.releaseScans_some h]
    split
    · exact stray _
    · exact (State.submit_tuning _ _ _ _ _).trans (stray _)
@[simp] theorem State.takeRawWrite_tuning (s : State) (w : RawWrite) : (s.takeRawWrite w).tuning = s.tuning := by
  have stray : ∀ x : State, (x.strayWords w).tuning = x.tuning := by
    intro x
    unfold State.strayWords
    split <;> rfl
  unfold State.takeRawWrite
  split <;> simp [stray]

/-! ### The engine -/

@[simp] theorem State.continueClear_tuning (s : State) (e c : Nat) : (s.continueClear e c).tuning = s.tuning := by
  unfold State.continueClear
  repeat' split
  all_goals rfl
@[simp] theorem State.serveChannels_tuning (s : State) (t e : Nat) (w : Sweep) (f : Nat) (p : List PilotSample) (cs : List Nat) :
    (s.serveChannels t e w f p cs).2.tuning = s.tuning := by
  unfold State.serveChannels State.finishSweep
  simp only
  repeat' split
  all_goals simp [State.issueAccumulate]
@[simp] theorem State.servePilot_tuning (s : State) (t e : Nat) (w : Sweep) : (s.servePilot t e w).2.tuning = s.tuning := by
  unfold State.servePilot
  split
  · rfl
  · exact State.serveChannels_tuning _ _ _ _ _ _ _
@[simp] theorem State.serveSweep_tuning (s : State) (t e : Nat) (w : Sweep) : (s.serveSweep t e w).2.tuning = s.tuning := by
  unfold State.serveSweep State.serveCapture
  simp only
  repeat' split
  all_goals simp
@[simp] theorem State.serveFrom_tuning (t : Nat) : ∀ (l : List Nat) (s : State), (State.serveFrom t l s).tuning = s.tuning
  | [], s => rfl
  | e :: rest, s => by
    unfold State.serveFrom
    split
    · exact State.serveFrom_tuning t rest s
    · rename_i w _
      split
      · have served := State.serveSweep_tuning s t e w
        split
        · rename_i s1 hs
          rwa [hs] at served
        · rename_i s1 hs
          rw [hs] at served
          exact (State.serveFrom_tuning t rest s1).trans served
      · exact State.serveFrom_tuning t rest s
@[simp] theorem State.serveRest_tuning (s : State) (t e : Nat) : (s.serveRest t e).tuning = s.tuning := State.serveFrom_tuning t _ _
@[simp] theorem State.serveOn_tuning (t e : Nat) (r : Bool × State) : (State.serveOn t e r).tuning = r.2.tuning := by
  obtain ⟨waits, s⟩ := r
  cases waits
  · exact State.serveRest_tuning s t e
  · rfl
@[simp] theorem State.skipWork_tuning (s : State) (w : EngineWork) : (s.skipWork w).tuning = s.tuning := by
  unfold State.skipWork
  split
  · rfl
  · exact State.serveRest_tuning _ _ _
@[simp] theorem State.processAnswered_tuning (s : State) (t e : Nat) (w : Sweep) (ws : List Word) (p : ProcessPhase) :
    (s.processAnswered t e w ws p).2.tuning = s.tuning := by
  cases p with
  | capture => exact State.servePilot_tuning s t e w
  | pilot f n g =>
    simp only [State.processAnswered, State.pilotRead, State.issuePilot]
    split <;> simp
  | accumulateRead f p c l n =>
    simp only [State.processAnswered, State.writeBack]
    split <;> simp
  | accumulateWrite f p c l n =>
    simp only [State.processAnswered, State.nextPiece, State.issueAccumulate]
    split <;> simp
@[simp] theorem State.engineAnswered_tuning (s : State) (ok : Bool) (ws : List Word) : (s.engineAnswered ok ws).tuning = s.tuning := by
  unfold State.engineAnswered
  repeat' split
  all_goals simp

/-! ### The Deferred Read Queue -/

@[simp] theorem State.discardRead_tuning (s : State) (r : DiscardReason) (p : Nat × DrqEntry) : (s.discardRead r p).tuning = s.tuning :=
  State.submit_tuning (s.freeDrq p.1) _ _ _ _
@[simp] theorem State.discardSlot_tuning (s : State) (i : Nat) (r : DiscardReason) : (s.discardSlot i r).tuning = s.tuning :=
  State.foldl_tuning _ (fun s p => State.discardRead_tuning s r p) _ s
@[simp] theorem State.countDown_tuning (s : State) (i : Nat) : (s.countDown i).tuning = s.tuning := by
  unfold State.countDown
  repeat' split
  all_goals simp
theorem State.deferRead_tuning (s : State) (q : Requester) (a n i : Nat) : (s.deferRead q a n i).2.tuning = s.tuning := by
  unfold State.deferRead
  repeat' split
  all_goals rfl
theorem State.sealedRead_tuning {s : State} {q : Requester} {a n : Nat} {r : UpstreamAnswer × State} (h : s.sealedRead q a n = some r) :
    r.2.tuning = s.tuning := by
  unfold State.sealedRead at h
  split at h
  · cases h
  · split at h
    all_goals cases h
    all_goals rfl
@[simp] theorem State.fetchAnswered_tuning (s : State) (ok : Bool) (ws : List Word) : (s.fetchAnswered ok ws).tuning = s.tuning := by
  unfold State.fetchAnswered
  simp only
  repeat' split
  · rfl
  · rfl
  · rfl
  · exact State.submit_tuning _ _ _ _ _
  · rfl

/-! ### The Stack Unit -/

@[simp] theorem State.completeTest_tuning (s : State) (i : Nat) : (s.completeTest i).tuning = s.tuning := by
  unfold State.completeTest
  simp only
  split <;> rfl
@[simp] theorem State.stackDamage_tuning (s : State) (i : Nat) (f : Bool) (op : PartOperation) :
    (s.stackDamage i f op).tuning = s.tuning := by
  unfold State.stackDamage
  simp only
  repeat' split
  all_goals simp
@[simp] theorem State.continueSlotClear_tuning (s : State) (i c : Nat) (f : Bool) : (s.continueSlotClear i c f).tuning = s.tuning := by
  unfold State.continueSlotClear
  split <;> rfl
@[simp] theorem State.foldEnd_tuning (s : State) (f : FoldWork) (w : Sweep) (o : SweepOutcome) : (s.foldEnd f w o).tuning = s.tuning := by
  unfold State.foldEnd State.drainEnd
  simp only
  split <;> simp
@[simp] theorem State.foldFrom_tuning (w : Sweep) (x : Bool) :
    ∀ (cs : List Nat) (f : FoldWork) (s : State), (State.foldFrom w x cs f s).tuning = s.tuning
  | [], f, s => State.foldEnd_tuning s f w .stacked
  | c :: rest, f, s => by
    unfold State.foldFrom
    repeat' split
    · exact State.foldFrom_tuning w x rest _ s
    · exact State.foldFrom_tuning w x rest _ s
    · rfl
@[simp] theorem State.foldRest_tuning (s : State) (f : FoldWork) (w : Sweep) (x : Bool) : (s.foldRest f w x).tuning = s.tuning :=
  State.foldFrom_tuning _ _ _ _ _
@[simp] theorem State.foldAnsweredOk_tuning (s : State) (f : FoldWork) (w : Sweep) (x : Bool) (ws : List Word) :
    (s.foldAnsweredOk f w x ws).tuning = s.tuning := by
  unfold State.foldAnsweredOk State.foldVerdict
  simp only [State.issueFoldRead, State.issueSumsRead]
  repeat' split
  all_goals simp
@[simp] theorem State.foldAnsweredFault_tuning (s : State) (f : FoldWork) (w : Sweep) (x : Bool) :
    (s.foldAnsweredFault f w x).tuning = s.tuning := by
  unfold State.foldAnsweredFault
  split <;> simp
@[simp] theorem State.takeFold_tuning (s : State) : s.takeFold.tuning = s.tuning := by
  have begin : ∀ (x : State) (e : Nat) (w : Sweep), (x.beginFold e w).tuning = x.tuning := by
    intro x e w
    unfold State.beginFold
    simp only
    split <;> simp
  unfold State.takeFold
  simp only
  repeat' split
  · exact begin _ _ _
  · rfl
  · rfl
@[simp] theorem State.continueSeal_tuning (s : State) (i j : Nat) (x : Bool) : (s.continueSeal i j x).tuning = s.tuning := by
  unfold State.continueSeal
  simp only
  split
  · rfl
  · exact State.submit_tuning (s.setSlot i _) _ _ _ _
@[simp] theorem State.stackAnswered_tuning (s : State) (ok : Bool) (ws : List Word) : (s.stackAnswered ok ws).tuning = s.tuning := by
  unfold State.stackAnswered State.slotClearAnswered State.sealAnswered
  simp only
  repeat' split
  all_goals simp

/-! ### The path and the Report Unit -/

@[simp] theorem State.takeCommandWords_tuning (s : State) (a : Nat) (ws : List Word) : (s.takeCommandWords a ws).tuning = s.tuning := by
  refine State.foldl_tuning _ (fun x j => ?_) _ s
  unfold State.takeSlotWords
  simp only
  split <;> rfl
@[simp] theorem State.takeConsumerWord_tuning (s : State) (a : Nat) (ws : List Word) : (s.takeConsumerWord a ws).tuning = s.tuning := by
  unfold State.takeConsumerWord State.takeConsumer
  repeat' split
  · rfl
  · exact State.reports_tuning s _ (congrArg (·.1) (Reports.flush_fixed _ _))
  · rfl
@[simp] theorem State.takeWrite_tuning (s : State) (q : Requester) (a : Nat) (data : List Word) :
    (s.takeWrite q a data).tuning = s.tuning := by
  unfold State.takeWrite
  repeat' split
  · simp
  · rfl
  · exact State.takeRawWrite_tuning _ _
  all_goals rfl
theorem State.reportAnswered_tuning (s : State) (ok : Bool) : (s.reportAnswered ok).tuning = s.tuning := by
  have slot : ∀ (x : State) (w : SlotWrite), (x.slotWriteAnswered ok w).tuning = x.tuning := by
    intro x w
    unfold State.slotWriteAnswered State.returnSlot
    simp only
    repeat' split
    all_goals simp
  unfold State.reportAnswered State.recordAnswered State.producerAnswered State.mirrorAnswered
  simp only
  split
  · rfl
  · rfl
  · repeat' split
    · rfl
    · rfl
    · exact State.submit_tuning _ _ _ _ _
  · split
    · exact State.submit_tuning _ _ _ _ _
    · rfl
  · split
    · rfl
    · exact State.submit_tuning _ _ _ _ _
  · exact slot _ _

end Sys2Proof.Machine
end

section
/-! PROOFS. What every step keeps of the tables' sizes and of the settings' ranges (R20, R50, R63, R77, R102, R143, R148, R155, R156, R158,
R174): one relation `keepsSettings` between the states before and after an operation, closed under composition. What leaves the base and
the tuning alone keeps both; the five settings commands, SET_REPORTS and LINE_RESET are looked at one by one. -/

namespace Sys2Proof.Machine

/-- What an operation from `s` to `t` keeps: the size of every table, and the settings in their ranges. -/
def State.keepsSettings (s t : State) : Prop := t.sizes = s.sizes ∧ (s.settingsOk → t.settingsOk)

/-- The settings but for the window that a command waits to set and the ring size. -/
def State.settings (s : State) := (s.geometry, s.windows, s.port.slices, s.sweeps.stallPeriod, s.drq.period)

/-- No SET_WINDOW is in progress that was not in progress before. -/
def State.asksNoNewWindow (s t : State) : Prop :=
  ∀ w, t.commands.progress = some (.setWindow w) → s.commands.progress = some (.setWindow w)

theorem State.settings_of_base {s t : State} (h : t.base = s.base) : t.settings = s.settings ∧ t.sizes = s.sizes := by
  simp only [State.base, Prod.mk.injEq] at h
  simp [State.settings, Port.slices, h]

namespace State.keepsSettings

theorem refl (s : State) : s.keepsSettings s := ⟨rfl, id⟩

theorem trans {s t u : State} (h : s.keepsSettings t) (k : t.keepsSettings u) : s.keepsSettings u := ⟨k.1.trans h.1, k.2 ∘ h.2⟩

/-- What leaves the settings and the ring size alone, and asks for no new window, keeps the ranges. -/
theorem of_settings {s t : State} (hs : t.settings = s.settings) (hz : t.sizes = s.sizes) (hr : t.reports.size = s.reports.size)
    (hw : s.asksNoNewWindow t) : s.keepsSettings t := by
  simp only [State.settings, Port.slices, Prod.mk.injEq] at hs
  obtain ⟨hg, hwin, ⟨hf, hp⟩, hst, hd⟩ := hs
  refine ⟨hz, fun ⟨slices, geometry, stall, discard, ⟨raw, stack, scratch, pilot, asked⟩, ring⟩ => ?_⟩
  unfold State.settingsOk State.windowsOk
  rw [hf, hp, hg, hst, hd, hwin, hr]
  exact ⟨slices, geometry, stall, discard, ⟨raw, stack, scratch, pilot, fun w h => asked w (hw w h)⟩, ring⟩

/-- What leaves the settings and the tuning alone keeps both. -/
theorem of_tuning {s t : State} (hs : t.settings = s.settings) (hz : t.sizes = s.sizes) (ht : t.tuning = s.tuning) :
    s.keepsSettings t := by
  simp only [State.tuning, Prod.mk.injEq] at ht
  obtain ⟨hp, hr⟩ := ht
  exact of_settings hs hz hr (fun w h => by rw [← hp]; exact h)

/-- What leaves the base and the tuning alone keeps both. -/
theorem of_base {s t : State} (hb : t.base = s.base) (ht : t.tuning = s.tuning) : s.keepsSettings t :=
  of_tuning (State.settings_of_base hb).1 (State.settings_of_base hb).2 ht

/-- The end of a command adds nothing to what came before it. -/
theorem endCommand {s t : State} (h : s.keepsSettings t) (x : Status) (r : Option (List Word)) : s.keepsSettings (t.endCommand x r) := by
  have base := State.settings_of_base (State.endCommand_base t x r)
  refine h.trans (of_settings base.1 base.2 ?_ ?_)
  · unfold State.endCommand
    repeat' split
    all_goals rfl
  · unfold State.endCommand State.asksNoNewWindow
    repeat' split
    · exact fun _ => id
    all_goals exact fun _ h => nomatch h

/-- The answer of the port is not looked at. -/
theorem giveAnswer {s t : State} (h : s.keepsSettings t) (a : UpstreamAnswer) : s.keepsSettings (t.giveAnswer a) :=
  h.trans (of_tuning rfl rfl rfl)

/-- A command goes on in later events, and does not wait to set a window. -/
theorem setProgress {s t : State} (h : s.keepsSettings t) {p : CommandProgress} (hp : ∀ w, p ≠ .setWindow w) :
    s.keepsSettings (t.setProgress p) :=
  h.trans (of_settings rfl rfl rfl (fun w hw => absurd (Option.some.inj hw) (hp w)))

end State.keepsSettings

/-! ### The settings commands (R143, R155, R156, R158, R174) -/

/-- The settings that SET_WINDOW takes are in their ranges (R156). -/
theorem QueueEntry.windowSetting_ok {q : QueueEntry} {w : WindowSetting} (h : q.windowSetting = some w) : w.ok := by
  unfold QueueEntry.windowSetting at h
  simp only at h
  split at h
  · split at h
    · cases h
      exact fun _ hx => nomatch hx
    · split at h
      · rename_i hr
        simp only [Bool.and_eq_true, decide_eq_true_eq] at hr
        obtain ⟨⟨base, low⟩, high⟩ := hr
        split at h
        · cases h
          rintro _ ⟨⟩
          exact ⟨base, low, high⟩
        · cases h
          rintro _ ⟨⟩
          exact ⟨base, low, high⟩
        · cases h
      · cases h
  · split at h
    · cases h
      exact fun _ hx => nomatch hx
    · rename_i nonzero
      split at h
      · rename_i hr
        simp only [Bool.and_eq_true, decide_eq_true_eq] at hr
        cases h
        rintro _ ⟨⟩
        exact ⟨hr.1, Nat.one_le_iff_ne_zero.mpr nonzero, hr.2⟩
      · cases h
  · split at h
    · cases h
      exact fun _ hx => nomatch hx
    · split at h
      · rename_i hr
        cases h
        rintro _ ⟨⟩
        exact (Bool.and_eq_true _ _ ▸ hr).1
      · cases h
  · split at h
    · cases h
      exact fun _ hx => nomatch hx
    · rename_i above
      split at h
      · rename_i hr
        simp only [Bool.and_eq_true, decide_eq_true_eq, beq_iff_eq] at hr
        cases h
        rintro _ ⟨⟩
        exact ⟨hr.1.1, Nat.not_lt.mp above, hr.1.2, hr.2⟩
      · cases h
  · cases h

/-- The window changes to settings in their ranges (R157). -/
theorem State.changeWindow_keeps (s : State) {w : WindowSetting} (hw : s.settingsOk → w.ok) : s.keepsSettings (s.changeWindow w) := by
  refine State.keepsSettings.endCommand ?_ _ _
  refine ⟨rfl, fun hs => ?_⟩
  have ok := hw hs
  obtain ⟨slices, geometry, stall, discard, ⟨raw, stack, scratch, pilot, asked⟩, ring⟩ := hs
  refine ⟨slices, geometry, stall, discard, ?_, ring⟩
  cases w with
  | raw x => exact ⟨ok, stack, scratch, pilot, asked⟩
  | stack x => exact ⟨raw, ok, scratch, pilot, asked⟩
  | scratch x => exact ⟨raw, stack, ok, pilot, asked⟩
  | pilot x => exact ⟨raw, stack, scratch, ok, asked⟩

theorem State.windowRule_keeps (q : QueueEntry) (s : State) : s.keepsSettings (s.windowRule q) := by
  unfold State.windowRule
  split
  · exact (State.keepsSettings.refl s).endCommand _ _
  · rename_i w hq
    have ok := QueueEntry.windowSetting_ok hq
    split
    · exact (State.keepsSettings.refl s).endCommand _ _
    · split
      · exact State.changeWindow_keeps s (fun _ => ok)
      · refine ⟨rfl, fun ⟨slices, geometry, stall, discard, ⟨raw, stack, scratch, pilot, _⟩, ring⟩ => ?_⟩
        refine ⟨slices, geometry, stall, discard, ⟨raw, stack, scratch, pilot, ?_⟩, ring⟩
        rintro _ ⟨⟩
        exact ok

/-- A waiting SET_WINDOW sets a window that the invariant already speaks of. -/
theorem State.makeWindowChange_keeps (s : State) : s.keepsSettings s.makeWindowChange := by
  unfold State.makeWindowChange
  split
  · rename_i w hp
    exact State.changeWindow_keeps s (fun ⟨_, _, _, _, ⟨_, _, _, _, asked⟩, _⟩ => asked w hp)
  · exact .refl s

theorem State.geometryRule_keeps (q : QueueEntry) (s : State) : s.keepsSettings (s.geometryRule q) := by
  unfold State.geometryRule
  simp only
  split
  · exact (State.keepsSettings.refl s).endCommand _ _
  · rename_i hg
    split
    · exact (State.keepsSettings.refl s).endCommand _ _
    · refine State.keepsSettings.endCommand ?_ _ _
      refine ⟨rfl, fun ⟨slices, _, rest⟩ => ⟨slices, .inr ?_, rest⟩⟩
      simpa using hg

theorem State.timersRule_keeps (q : QueueEntry) (s : State) : s.keepsSettings (s.timersRule q) := by
  unfold State.timersRule
  simp only
  split
  · exact (State.keepsSettings.refl s).endCommand _ _
  · refine State.keepsSettings.endCommand ?_ _ _
    refine ⟨rfl, fun ⟨slices, geometry, _, _, rest⟩ => ⟨slices, geometry, ?_, ?_, rest⟩⟩
    · simp only
      omega
    · simp only
      omega

theorem State.arbiterRule_keeps (q : QueueEntry) (s : State) : s.keepsSettings (s.arbiterRule q) := by
  unfold State.arbiterRule
  simp only
  split
  · exact (State.keepsSettings.refl s).endCommand _ _
  · refine State.keepsSettings.endCommand ?_ _ _
    refine ⟨rfl, fun ⟨_, rest⟩ => ⟨?_, rest⟩⟩
    simp only
    omega

/-- SET_REPORTS gives the ring the size asked for (R174). -/
@[simp] theorem Reports.setRing_size (r : Reports) (n : Nat) (e : Bool) (newest : Option Nat) : (r.setRing n e newest).size = n := by
  unfold Reports.setRing
  simp only
  split
  · rfl
  · exact congrArg (·.1) (Reports.flush_fixed _ _)

theorem State.reportsRule_keeps (q : QueueEntry) (s : State) : s.keepsSettings (s.reportsRule q) := by
  unfold State.reportsRule
  split
  · exact (State.keepsSettings.refl s).endCommand _ _
  · rename_i hr
    refine State.keepsSettings.endCommand ⟨by simp [State.sizes], ?_⟩ _ _
    refine fun ⟨slices, geometry, stall, discard, windows, _⟩ => ⟨slices, geometry, stall, discard, windows, ?_⟩
    rw [Reports.setRing_size]
    simpa using (not_or.mp hr).1

/-! ### The other commands, and the steps due at once -/

theorem State.setMode_keepsSettings (s : State) (target : Mode) (flag : Nat) : s.keepsSettings (s.setMode target flag) := by
  unfold State.setMode
  repeat' split
  all_goals exact State.keepsSettings.endCommand (.of_base (by simp) (by simp)) _ _

/-- A command whose rule ends it, after work that leaves the base and the tuning alone. -/
theorem State.endCommand_keeps {s t : State} (hb : t.base = s.base) (ht : t.tuning = s.tuning) (x : Status)
    (r : Option (List Word)) : s.keepsSettings (t.endCommand x r) := (State.keepsSettings.of_base hb ht).endCommand x r

theorem State.engineResetRule_keeps (q : QueueEntry) (s : State) : s.keepsSettings (s.engineResetRule q) := by
  have freed : ∀ (x : State) (i : Nat), (x.discardStack i).tuning = x.tuning := by
    intro x i
    simp [State.discardStack]
  refine State.keepsSettings.setProgress (.of_base ?_ ?_) (fun _ => nofun)
  · rw [State.foldl_base _ State.discardStack_base]
    simp
  · exact State.foldl_tuning _ freed _ _

/-- The rule of a command keeps both. -/
theorem CommandKind.rule_keepsSettings (k : CommandKind) (q : QueueEntry) (s : State) : s.keepsSettings (k.rule q s) := by
  have ends := (State.keepsSettings.refl s).endCommand
  cases k with
  | setGeometry => exact State.geometryRule_keeps q s
  | setWindow => exact State.windowRule_keeps q s
  | setTimers => exact State.timersRule_keeps q s
  | setArbiter => exact State.arbiterRule_keeps q s
  | setReports => exact State.reportsRule_keeps q s
  | engineReset => exact State.engineResetRule_keeps q s
  | readState => exact ends _ _
  | setMode =>
    simp only [CommandKind.rule, State.setModeRule]
    repeat' split
    · exact ends _ _
    · exact State.setMode_keepsSettings s _ _
    · exact State.setMode_keepsSettings s _ _
    · exact ends _ _
  | definePilot =>
    simp only [CommandKind.rule, State.defineRule]
    split
    · exact ends _ _
    · refine State.keepsSettings.setProgress (.of_base ?_ ?_) (fun _ => nofun)
      · exact State.setPilot_base s _ _
      · rfl
  | openSourcePoint =>
    simp only [CommandKind.rule, State.openRule, State.claimSlot]
    repeat' split
    · exact ends _ _
    · exact ends _ _
    · exact ends _ _
    · exact State.endCommand_keeps (by simp) (by rfl) _ _
    · exact State.keepsSettings.setProgress (.refl s) (fun _ => nofun)
  | noticeSweep | cancelSweep | readSweep | removePilot | muteChannel | unmuteChannel | readChannel | closeSourcePoint | releaseStack =>
    simp only [CommandKind.rule, State.noticeRule, State.cancelRule, State.readSweepRule, State.removeRule, State.muteRule,
      State.unmuteRule, State.readChannelRule, State.closeRule, State.releaseRule]
    repeat' split
    all_goals exact State.endCommand_keeps (by simp) (by simp) _ _

theorem State.beginCommand_keepsSettings (k : CommandKind) (s : State) : s.keepsSettings (s.beginCommand k k.rule) := by
  unfold State.beginCommand
  repeat' split
  · exact .refl s
  · exact CommandKind.rule_keepsSettings k _ s
  · exact (State.keepsSettings.refl s).endCommand _ _

theorem State.makeSlotClaim_keeps (s : State) : s.keepsSettings s.makeSlotClaim := by
  unfold State.makeSlotClaim State.claimSlot
  split
  · exact State.endCommand_keeps (by simp) (by rfl) _ _
  · exact .refl s

theorem State.atOnce_keepsSettings (s : State) : s.keepsSettings s.atOnce := by
  unfold State.atOnce State.beginHead
  repeat' split
  · exact .refl s
  · exact (State.keepsSettings.refl s).endCommand _ _
  · exact State.beginCommand_keepsSettings _ s
  · exact State.makeSlotClaim_keeps s
  · exact State.makeWindowChange_keeps s

theorem State.settle_keepsSettings (s : State) : s.keepsSettings s.settle := .of_base (State.settle_base s) (State.settle_tuning s)

theorem State.caughtUp_keepsSettings (s : State) : s.keepsSettings s.caughtUp :=
  State.caughtUp_keeps (P := s.keepsSettings) (fun x h => h.trans (State.settle_keepsSettings x))
    (fun x h => h.trans (State.atOnce_keepsSettings x)) (.refl s)

/-! ### Time, resets, transactions and answers -/

theorem State.pulse_keepsSettings (s : State) : s.keepsSettings s.pulse := by
  have stall : s.tickStall.base = s.base := by
    unfold State.tickStall
    repeat' split
    · rfl
    · exact State.stallExpire_base s
    · rfl
  exact .of_base ((State.foldl_base _ State.countDown_base _ _).trans stall)
    ((State.foldl_tuning _ State.countDown_tuning _ _).trans (State.tickStall_tuning s))

theorem State.resetScans_keepsSettings (s : State) : s.keepsSettings s.resetScans := by
  unfold State.resetScans
  split
  · exact State.keepsSettings.setProgress (.of_base (by simp) (by simp)) (fun _ => nofun)
  · exact .refl s

theorem State.resetDone_keepsSettings (s : State) : s.keepsSettings s.resetDone := by
  unfold State.resetDone State.resetMode
  split
  · split <;> exact State.endCommand_keeps (by simp) (by simp) _ _
  · exact .refl s

theorem State.decideWrite_keepsSettings (s : State) (q : Requester) (a : Nat) (data : List Word) :
    s.keepsSettings (s.decideWrite q a data) := by
  have reported : ∀ k n r x, s.keepsSettings (s.submit k n r x) := fun k n r x =>
    .of_base (State.submit_base s k n r x) (State.submit_tuning s k n r x)
  have forwarded : s.keepsSettings (s.forward q a data) := by
    obtain h | h := State.forward_cases s q a data <;> rw [h]
    · exact .refl s
    · exact .of_tuning rfl rfl rfl
  have taken : ∀ x : State, (x.takeWrite q a data).base = x.base := by
    intro x
    unfold State.takeWrite
    repeat' split
    all_goals simp
  unfold State.decideWrite
  repeat' split
  · exact (reported _ _ _ _).giveAnswer _
  · exact (reported _ _ _ _).giveAnswer _
  · exact (forwarded.trans (.of_base (taken _) (State.takeWrite_tuning _ q a data))).giveAnswer _
  · exact (State.keepsSettings.refl s).giveAnswer _

theorem State.readTransaction_keepsSettings (s : State) (q : Requester) (a n : Nat) : s.keepsSettings (s.readTransaction q a n) := by
  have hold : s.keepsSettings (s.holdRead q a n) := by
    unfold State.holdRead State.issueHeld
    simp only
    split
    · exact .of_tuning (by simp [State.settings]) rfl rfl
    · exact .of_tuning rfl rfl rfl
  have deferred : ∀ i, s.keepsSettings (State.answeredRead (s.deferRead q a n i)) := fun i =>
    State.keepsSettings.giveAnswer (.of_base (State.deferRead_base s q a n i) (State.deferRead_tuning s q a n i)) _
  unfold State.readTransaction State.decideRead
  repeat' split
  · exact State.keepsSettings.giveAnswer (.of_base (State.submit_base s _ _ _ _) (State.submit_tuning s _ _ _ _)) _
  · exact hold
  · exact hold
  · exact hold
  · exact hold
  · rename_i r hr
    exact State.keepsSettings.giveAnswer (.of_base (State.sealedRead_base s q a n r hr).1 (State.sealedRead_tuning hr)) _
  all_goals exact deferred _

theorem State.issueRead_keepsSettings (s : State) : s.keepsSettings s.issueRead := by
  unfold State.issueRead State.issueHeld
  split
  · exact .refl s
  · exact .of_tuning (by simp [State.settings]) rfl rfl

/-- A write that leaves the buffer tells a waiting check, and no command begins to wait for a window (R130). -/
theorem State.popWrite_keepsSettings (s : State) (rest : List PwbEntry) : s.keepsSettings (s.popWrite rest) := by
  refine .of_settings rfl rfl rfl (fun w hw => ?_)
  unfold State.popWrite at hw
  cases hp : s.commands.progress with
  | none => simp [hp] at hw
  | some p => cases p <;> simp_all [CommandProgress.drained]

theorem State.forwardAnswered_keepsSettings (s : State) (x : ForwardSource) (ok : Bool) (ws : List Word) :
    s.keepsSettings (s.forwardAnswered x ok ws) := by
  cases x with
  | delivery =>
    simp only [State.forwardAnswered, State.deliveryAnswered]
    repeat' split
    · exact .refl s
    · exact State.popWrite_keepsSettings s _
    · exact (State.popWrite_keepsSettings s _).trans (.of_base (State.submit_base _ _ _ _ _) (State.submit_tuning _ _ _ _ _))
  | passThroughRead =>
    simp only [State.forwardAnswered, State.readAnswered]
    repeat' split
    · exact .refl s
    all_goals exact .of_tuning rfl rfl rfl

theorem State.issueCheck_keepsSettings (s : State) (id n : Nat) (sum : Word) : s.keepsSettings (s.issueCheck id n sum) := by
  unfold State.issueCheck
  refine State.keepsSettings.trans (State.keepsSettings.setProgress (.refl s) ?_) (.of_base (State.present_base _ _ _) rfl)
  exact fun _ => nofun

theorem State.checkAnswered_keepsSettings (s : State) (ok : Bool) (ws : List Word) : s.keepsSettings (s.checkAnswered ok ws) := by
  unfold State.checkAnswered State.endCheck
  simp only
  repeat' split
  · exact State.endCommand_keeps (by simp) (by simp) _ _
  · exact State.issueCheck_keepsSettings s _ _ _
  · exact State.endCommand_keeps (by simp) (by simp) _ _
  · exact State.endCommand_keeps (by simp) (by simp) _ _
  · exact .refl s

theorem State.startCheck_keepsSettings (s : State) : s.keepsSettings s.startCheck := by
  unfold State.startCheck
  split
  · exact State.issueCheck_keepsSettings s _ _ _
  · exact .refl s

theorem State.clientAnswered_keepsSettings (s : State) (c : Client) (ok : Bool) (ws : List Word) :
    s.keepsSettings (s.clientAnswered c ok ws) := by
  cases c with
  | engine => exact .of_base (State.engineAnswered_base s ok ws) (State.engineAnswered_tuning s ok ws)
  | stackUnit => exact .of_base (State.stackAnswered_base s ok ws) (State.stackAnswered_tuning s ok ws)
  | pilotUnit => exact State.checkAnswered_keepsSettings s ok ws
  | drqFetch => exact .of_base (State.fetchAnswered_base s ok ws) (State.fetchAnswered_tuning s ok ws)
  | reportUnit => exact .of_base (State.reportAnswered_base s ok) (State.reportAnswered_tuning s ok)

theorem State.discardedAnswer_keepsSettings (s : State) (c : Client) : s.keepsSettings (s.discardedAnswer c) := by
  refine .of_base (State.discardedAnswer_base s c) ?_
  unfold State.discardedAnswer
  repeat' split
  all_goals simp

theorem State.attemptAnswered_keepsSettings (a : DramAnswer) (s : State) : s.keepsSettings (s.attemptAnswered a) := by
  have freed : ∀ (m : Memory) (p : Port), p.slices = s.port.slices → s.keepsSettings { s with memory := m, port := p } := fun m p h =>
    .of_tuning (by simp [State.settings, h]) rfl rfl
  unfold State.attemptAnswered State.forwardAttempt State.partAttempt
  simp only
  repeat' split
  · exact .refl s
  · exact .refl s
  · exact (freed _ _ rfl).trans (State.forwardAnswered_keepsSettings _ _ _ _)
  · exact .refl s
  · exact .refl s
  · exact (freed _ _ (by simp)).trans (State.discardedAnswer_keepsSettings _ _)
  · exact (freed _ _ (by simp)).trans (State.clientAnswered_keepsSettings _ _ _ _)

theorem State.attemptBusy_keepsSettings (s : State) : s.keepsSettings s.attemptBusy := by
  unfold State.attemptBusy
  repeat' split
  · exact .refl s
  · exact .of_tuning (by simp [State.settings]) rfl rfl
  · exact State.attemptAnswered_keepsSettings _ s

theorem State.handBusyWrite_keepsSettings (s : State) : s.keepsSettings s.handBusyWrite := by
  refine .of_base (State.handBusyWrite_base s) ?_
  unfold State.handBusyWrite
  split <;> rfl

theorem State.abandonedFinished_keepsSettings (landed : List Bool) (s : State) : s.keepsSettings (s.abandonedFinished landed) := by
  unfold State.abandonedFinished
  split
  · exact .refl s
  · exact .of_tuning rfl rfl rfl

/-! ### The items that the engine and the Stack Unit take -/

theorem State.takeClear_keepsSettings (s : State) : s.keepsSettings s.takeClear := by
  refine .of_base (State.takeClear_base s) ?_
  unfold State.takeClear
  split
  · exact State.continueClear_tuning _ _ _
  · rfl

theorem State.takeProcess_keepsSettings (s : State) : s.keepsSettings s.takeProcess := by
  refine .of_base (State.takeProcess_base s) ?_
  unfold State.takeProcess
  split
  · exact State.serveFrom_tuning _ _ _
  · rfl

theorem State.takeClearSlot_keepsSettings (s : State) : s.keepsSettings s.takeClearSlot := by
  refine .of_base (State.takeClearSlot_base s) ?_
  unfold State.takeClearSlot
  split
  · exact State.continueSlotClear_tuning _ _ _ _
  · rfl

theorem State.takeSeal_keepsSettings (s : State) : s.keepsSettings s.takeSeal := by
  refine .of_base (State.takeSeal_base s) ?_
  unfold State.takeSeal
  simp only
  split
  · exact State.continueSeal_tuning _ _ _ _
  · rfl

/-! ### Every row -/

/-- An event keeps both when its effect does. -/
theorem State.event_keepsSettings {due : State → Bool} {effect : State → State} (h : ∀ m : State, m.keepsSettings (effect m))
    {s t : State} (ht : State.event due effect s = .next t) : s.keepsSettings t := by
  obtain rfl | ⟨_, rfl⟩ := State.event_next ht
  · exact .refl _
  · exact ((State.settle_keepsSettings s).trans (h _)).trans (State.settle_keepsSettings _)

/-- The same for an event that what is due at once comes before. -/
theorem State.laterEvent_keepsSettings {due : State → Bool} {effect : State → State} (h : ∀ m : State, m.keepsSettings (effect m))
    {s t : State} (ht : State.laterEvent due effect s = .next t) : s.keepsSettings t := by
  obtain rfl | ⟨_, rfl⟩ := State.laterEvent_next ht
  · exact .refl _
  · exact ((State.caughtUp_keepsSettings s).trans (h _)).trans (State.settle_keepsSettings _)

theorem State.command_keepsSettings (k : CommandKind) {s t : State} (ht : State.command k k.rule s = .next t) : s.keepsSettings t :=
  State.event_keepsSettings (State.beginCommand_keepsSettings k) ht

/-- A row leaves tables of their sizes and settings in their ranges. -/
def State.keepsTables (s t : State) : Prop := s.tablesOk → s.settingsOk → t.tablesOk ∧ t.settingsOk

theorem State.keepsSettings.keepsTables {s t : State} (h : s.keepsSettings t) : s.keepsTables t :=
  fun tables settings => ⟨h.1.trans tables, h.2 settings⟩

theorem State.lineReset_keepsTables (b : BitVec 4) (s : State) : s.keepsTables (s.lineReset b).settle := by
  obtain ⟨-, -, -, tables, settings⟩ := State.lineResetValues_ok b s.leftAtDram s.memory s.pending
  exact fun _ _ => (State.settle_keepsSettings (s.lineReset b)).keepsTables tables settings

/-- Every row but LINE_RESET keeps the sizes and the ranges whatever they were; after LINE_RESET they are those of the reset values. -/
theorem exec_keepsTables (i : Instr) {s t : State} (h : exec i s = .next t) : s.keepsTables t := by
  have answer (a : DramAnswer) := State.attemptAnswered_keepsSettings a
  have write (q : Requester) (a : Nat) (data : List Word) := fun m => State.decideWrite_keepsSettings m q a data
  have later {due : State → Bool} {effect : State → State} (k : ∀ m : State, m.keepsSettings (effect m))
      (g : State.laterEvent due effect s = .next t) := (State.laterEvent_keepsSettings k g).keepsTables
  have now {due : State → Bool} {effect : State → State} (k : ∀ m : State, m.keepsSettings (effect m))
      (g : State.event due effect s = .next t) := (State.event_keepsSettings k g).keepsTables
  have command (k : CommandKind) (g : State.command k k.rule s = .next t) := (State.command_keepsSettings k g).keepsTables
  cases i with
  | lineReset b =>
    obtain rfl : (s.lineReset b).settle = t := by injection h
    exact State.lineReset_keepsTables b s
  | tick => exact later (due := fun _ => true) State.pulse_keepsSettings h
  | stallTimerExpiry => exact later State.pulse_keepsSettings h
  | discardCountdownExpiry e => exact later State.pulse_keepsSettings h
  | upstreamWrite q a d => exact later (write q _ d) h
  | rawWindowWrite q a d => exact later (write q _ d) h
  | consumerIndexWrite q a d => exact later (write q _ d) h
  | upstreamRead q a n => exact later (fun m => State.readTransaction_keepsSettings m q _ n) h
  | passThroughReadIssue => exact later State.issueRead_keepsSettings h
  | passThroughReadAnswer a => exact later (answer a) h
  | pwbDeliveryAnswer a => exact later (answer a) h
  | attemptBusy => exact later State.attemptBusy_keepsSettings h
  | clearSweep => exact later State.takeClear_keepsSettings h
  | processScan => exact later State.takeProcess_keepsSettings h
  | engineTransferAnswer a => exact later (answer a) h
  | clearSlot => exact later State.takeClearSlot_keepsSettings h
  | fold => exact later (fun m => .of_base (State.takeFold_base m) (State.takeFold_tuning m)) h
  | stackUnitTransferAnswer a => exact later (answer a) h
  | drqFetchAnswer a => exact later (answer a) h
  | pilotCheckStart => exact later State.startCheck_keepsSettings h
  | pilotCheckReadAnswer a => exact later (answer a) h
  | reportWriteAnswer a => exact later (answer a) h
  | producerWriteAnswer a => exact later (answer a) h
  | mirrorWriteAnswer a => exact later (answer a) h
  | busyWriteHanded => exact later State.handBusyWrite_keepsSettings h
  | commandSlotWriteAnswer a => exact later (answer a) h
  | badKindCommand => exact now (fun m => (State.keepsSettings.refl m).endCommand _ _) h
  | windowChange => exact now State.makeWindowChange_keeps h
  | slotClaim => exact now State.makeSlotClaim_keeps h
  | engineResetScanAssembler => exact later State.resetScans_keepsSettings h
  | engineResetDone => exact later State.resetDone_keepsSettings h
  | abandonedAttemptFinished l => exact later (State.abandonedFinished_keepsSettings l) h
  | setGeometry => exact command .setGeometry h
  | setWindow => exact command .setWindow h
  | setTimers => exact command .setTimers h
  | readState => exact command .readState h
  | engineReset => exact command .engineReset h
  | noticeSweep => exact command .noticeSweep h
  | cancelSweep => exact command .cancelSweep h
  | readSweep => exact command .readSweep h
  | definePilot => exact command .definePilot h
  | removePilot => exact command .removePilot h
  | muteChannel => exact command .muteChannel h
  | unmuteChannel => exact command .unmuteChannel h
  | readChannel => exact command .readChannel h
  | openSourcePoint => exact command .openSourcePoint h
  | closeSourcePoint => exact command .closeSourcePoint h
  | releaseStack => exact command .releaseStack h
  | setArbiter => exact command .setArbiter h
  | setMode => exact command .setMode h
  | setReports => exact command .setReports h
  -- The one row left is SEAL, whose name as a case is a keyword of Lean.
  | _ => exact later State.takeSeal_keepsSettings h

/-- Settles O59: an empty queue idles, and every row keeps the tables and the settings. -/
theorem stepKeepsTablesAndSettings : Obligations.StepKeepsTablesAndSettings := by
  intro s t tables settings h
  unfold step at h
  split at h
  · injection h with h
    exact h ▸ ⟨tables, settings⟩
  · rename_i c rest _
    exact exec_keepsTables c h tables settings

end Sys2Proof.Machine
end

section
/-! PROOFS. The reset values, and time (R40, R41, R111, R172): one lemma for each step of a discard countdown, a pulse in which none
comes to 0, and the expiry of the Stall Timer. -/

namespace Sys2Proof.Machine

/-! ### Reset -/

/-- Settles O3: the reset values are those of the definitions, and after them no report waits. -/
theorem resetValues : Obligations.ResetValues := ⟨fun _ _ _ _ => rfl, rfl, rfl⟩

/-! ### One discard countdown (R111) -/

theorem State.drqEntry_eq_some (y : State) (i : Nat) (e : DrqEntry) : y.drqEntry i = some e ↔ y.drq.entries[i]? = some (some e) := by
  unfold State.drqEntry
  cases y.drq.entries[i]? with
  | none => simp
  | some x => cases x <;> simp

/-- A free entry has no countdown. -/
theorem State.countDown_unused {y : State} {i : Nat} (h : ∀ e, y.drq.entries[i]? ≠ some (some e)) : y.countDown i = y := by
  have unused : y.drqEntry i = none :=
    Option.eq_none_iff_forall_ne_some.mpr fun e he => h e ((State.drqEntry_eq_some y i e).mp he)
  simp [State.countDown, unused]

/-- A countdown that does not come to 0 is lowered. -/
theorem State.countDown_runs {y : State} {i : Nat} {e : DrqEntry} (h : y.drq.entries[i]? = some (some e)) (hc : 1 < e.countdown) :
    y.countDown i = y.setDrq i (some { e with countdown := e.countdown - 1 }) := by
  unfold State.countDown
  simp only [(State.drqEntry_eq_some y i e).mpr h, if_neg (Nat.not_le.mpr hc)]

/-- One that comes to 0 frees its entry with TIMEOUT. -/
theorem State.countDown_expires {y : State} {i : Nat} {e : DrqEntry} (h : y.drq.entries[i]? = some (some e)) (hc : e.countdown ≤ 1) :
    y.countDown i = y.discardRead .timeout (i, e) := by
  unfold State.countDown
  simp only [(State.drqEntry_eq_some y i e).mpr h, if_pos hc]

/-! ### A pulse in which no countdown comes to 0 (R172) -/

/-- An entry with its countdown lowered. -/
def DrqEntry.counted (e : DrqEntry) : DrqEntry := { e with countdown := e.countdown - 1 }

/-- Counting one entry that does not expire lowers its countdown, if it is in use. -/
theorem State.countDown_entry {y : State} {before after : List (Option DrqEntry)} {x : Option DrqEntry}
    (h : y.drq.entries = before ++ x :: after) (hx : ∀ e, x = some e → 1 < e.countdown) :
    y.countDown before.length = { y with drq := { y.drq with entries := before ++ x.map DrqEntry.counted :: after } } := by
  have at_entry : y.drq.entries[before.length]? = some x := by simp [h]
  cases x with
  | none =>
    rw [State.countDown_unused (by simp [at_entry])]
    exact h ▸ rfl
  | some e =>
    rw [State.countDown_runs at_entry (hx e rfl)]
    simp [State.setDrq, h, DrqEntry.counted]

/-- Counting the first entries, none of which expires, lowers their countdowns. -/
theorem State.countDown_range {y : State} (run : ∀ e, some e ∈ y.drq.entries → 1 < e.countdown) :
    ∀ n, n ≤ y.drq.entries.length → (List.range n).foldl State.countDown y = { y with drq := { y.drq with
      entries := (y.drq.entries.take n).map (Option.map DrqEntry.counted) ++ y.drq.entries.drop n } }
  | 0, _ => rfl
  | n + 1, hn => by
    have next : y.drq.entries.drop n = y.drq.entries[n] :: y.drq.entries.drop (n + 1) := List.drop_eq_getElem_cons hn
    have length : ((y.drq.entries.take n).map (Option.map DrqEntry.counted)).length = n := by
      rw [List.length_map, List.length_take]
      omega
    rw [List.range_succ, List.foldl_append, State.countDown_range run n (by omega), next, List.foldl_cons, List.foldl_nil]
    conv => lhs; arg 2; rw [← length]
    rw [State.countDown_entry rfl (fun e he => run e (he ▸ List.getElem_mem hn)), List.take_succ_eq_append_getElem hn]
    simp only [List.map_append, List.map_cons, List.map_nil, List.append_assoc, List.cons_append, List.nil_append]

/-- The timer's part of a pulse in which it does not expire. -/
theorem State.tickStall_runs {m : State} (h : ∀ n, m.sweeps.stallTimer = some n → 1 < n) :
    m.tickStall = { m with sweeps := { m.sweeps with stallTimer := m.sweeps.stallTimer.map (fun n => n - 1) } } := by
  unfold State.tickStall
  cases ht : m.sweeps.stallTimer with
  | none =>
    have stopped : { m with sweeps := { m.sweeps with stallTimer := none } } = m := by rw [← ht]
    exact stopped.symm
  | some n => exact if_neg (Nat.not_le.mpr (h n ht))

/-- A pulse in which no countdown comes to 0 lowers every running one. -/
theorem State.pulse_runs {m : State} (length : m.drq.entries.length = 8) (timer : ∀ n, m.sweeps.stallTimer = some n → 1 < n)
    (run : ∀ e, some e ∈ m.drq.entries → 1 < e.countdown) :
    m.pulse = { m with
      sweeps := { m.sweeps with stallTimer := m.sweeps.stallTimer.map (fun n => n - 1) }
      drq := { m.drq with entries := m.drq.entries.map (Option.map DrqEntry.counted) } } := by
  have ticked := State.tickStall_runs timer
  have counted : m.tickStall.tickDrq = _ :=
    State.countDown_range (y := m.tickStall) (by rw [ticked]; exact run) 8 (by rw [ticked]; exact Nat.le_of_eq length.symm)
  rw [ticked] at counted
  simp only [List.take_of_length_le (Nat.le_of_eq length), List.drop_of_length_le (Nat.le_of_eq length), List.append_nil] at counted
  exact (congrArg State.tickDrq ticked).trans counted

/-- Settles O7: a pulse is the Stall Timer's step and then one step for each entry, whose three cases are those above. -/
theorem tickAndDiscard : Obligations.TickAndDiscard := by
  refine ⟨?_, ?_, ?_⟩
  · intro s m hm length timer run
    have ticked : exec .tick s = .next m.pulse.settle := State.laterEvent_at (due := fun _ => true) hm rfl
    rw [ticked, State.pulse_runs length timer run]
    rfl
  · intro s m x hm hx
    have counted : (List.range 8).foldl State.countDown x = m.pulse := by
      rw [hx]
      rfl
    rw [counted]
    refine ⟨State.laterEvent_at (due := fun _ => true) hm rfl, fun i e he hc => ?_⟩
    have due : m.discardExpiryDue i = true := by
      simp [State.discardExpiryDue, (State.drqEntry_eq_some m i e).mpr he, hc]
    exact State.laterEvent_at hm due
  · intro y i
    exact ⟨State.countDown_unused, fun e he => ⟨State.countDown_runs he, State.countDown_expires he⟩⟩

/-! ### The expiry of the Stall Timer (R41) -/

/-- Settles O8: the pulse that brings the Stall Timer to 0 is its expiry and then the count of the discard countdowns. -/
theorem stallExpiry : Obligations.StallExpiry := by
  intro s m s1 s2 s3 s4 n hm htimer hn h1 h2 h3 h4
  have stalled : s1.mapSweeps Sweep.stall = s2 := h2.symm
  have expired : m.stallExpire = s4 := by
    have aborted : m.leaveAll (m.entriesWhere (fun w => w.state == .stalled)) .stallAborted = s1 := h1.symm
    unfold State.stallExpire
    simp only [aborted, stalled, List.length_eq_zero_iff, ← h3]
    exact h4.symm
  have pulse : m.pulse = (List.range 8).foldl State.countDown s4 := by
    have ticked : m.tickStall = s4 := by
      unfold State.tickStall
      simp only [htimer, if_pos hn, expired]
    exact congrArg State.tickDrq ticked
  have due : m.stallExpiryDue = true := by simp [State.stallExpiryDue, htimer, hn]
  exact ⟨expired, pulse ▸ State.laterEvent_at hm due⟩

end Sys2Proof.Machine
end

section
/-! PROOFS. The pieces of a CLEAR (R26, R83, R137): the words of the lags in use, as a run within a 64-byte block. -/

namespace Sys2Proof.Machine

/-! ### The words of the lags in use -/

/-- A word is one of lags 0 to k-1 of channels 0 to c-1. -/
theorem inLags_iff (c kMax k x : Nat) : inLags c kMax k x = true ↔ x / (2 * kMax) < c ∧ x % (2 * kMax) < 2 * k := by
  simp [inLags]

/-- The word at which the next piece may begin: the cursor, or the first word of the next channel when the lags in use are passed. -/
def pieceStart (kMax k cursor : Nat) : Nat :=
  if cursor % (2 * kMax) < 2 * k then cursor else (cursor / (2 * kMax) + 1) * (2 * kMax)

/-- How many words of the block, from the first word of a piece on, are words of the lags in use. -/
def pieceRun (c kMax k start : Nat) : Nat :=
  ((List.range (16 - start % 16)).takeWhile (fun i => inLags c kMax k (start + i))).length

theorem nextTablePiece_eq (c kMax k cursor : Nat) : nextTablePiece c kMax k cursor =
    if inLags c kMax k (pieceStart kMax k cursor) = true
    then some (pieceStart kMax k cursor, pieceRun c kMax k (pieceStart kMax k cursor)) else none := rfl

/-- The words between the cursor and the start of the piece belong to lags that are not in use. -/
theorem pieceStart_skips {kMax k cursor x : Nat} (hk : 1 ≤ kMax) (h : cursor ≤ x) (hx : x < pieceStart kMax k cursor) :
    ¬ x % (2 * kMax) < 2 * k := by
  unfold pieceStart at hx
  split at hx
  · omega
  · rename_i passed
    have row := Nat.div_add_mod cursor (2 * kMax)
    have same : x / (2 * kMax) = cursor / (2 * kMax) := by
      refine Nat.le_antisymm (Nat.lt_succ_iff.mp ?_) (Nat.div_le_div_right h)
      exact (Nat.div_lt_iff_lt_mul (by omega)).mpr hx
    have column := Nat.div_add_mod x (2 * kMax)
    rw [same] at column
    omega

theorem le_pieceStart {kMax k cursor : Nat} (hk : 1 ≤ kMax) : cursor ≤ pieceStart kMax k cursor := by
  unfold pieceStart
  split
  · exact Nat.le_refl _
  · have row := Nat.lt_div_mul_add (a := cursor) (b := 2 * kMax) (by omega)
    rw [Nat.add_mul, Nat.one_mul]
    exact Nat.le_of_lt row

/-- A piece that does not begin in a lag in use begins beyond the last channel. -/
theorem pieceStart_beyond {c kMax k cursor : Nat} (hk : 1 ≤ kMax) (h : inLags c kMax k (pieceStart kMax k cursor) = false)
    {x : Nat} (hx : cursor ≤ x) : ¬ (x / (2 * kMax) < c ∧ x % (2 * kMax) < 2 * k) := by
  rintro ⟨channel, lag⟩
  have reached : pieceStart kMax k cursor ≤ x := Nat.not_lt.mp fun hlt => pieceStart_skips hk hx hlt lag
  have before : pieceStart kMax k cursor / (2 * kMax) < c := Nat.lt_of_le_of_lt (Nat.div_le_div_right reached) channel
  have out : ¬ pieceStart kMax k cursor % (2 * kMax) < 2 * k := fun hlag =>
    Bool.eq_false_iff.mp h ((inLags_iff c kMax k _).mpr ⟨before, hlag⟩)
  unfold pieceStart at out
  split at out
  · exact out ‹_›
  · rw [Nat.mul_mod_left] at out
    omega

/-! ### The run within the block -/

/-- The numbers below `n` up to the first that a test refuses. -/
theorem takeWhile_range (p : Nat → Bool) : ∀ n, ∃ m ≤ n, (List.range n).takeWhile p = List.range m ∧ (∀ i < m, p i = true) ∧
    (m = n ∨ p m = false)
  | 0 => ⟨0, Nat.le_refl 0, rfl, fun _ h => absurd h (Nat.not_lt_zero _), .inl rfl⟩
  | n + 1 => by
    obtain ⟨m, hm, taken, passed, stopped⟩ := takeWhile_range p n
    rw [List.range_succ, List.takeWhile_append]
    by_cases all : m = n
    · subst all
      rw [taken, if_pos rfl]
      cases hp : p m with
      | true =>
        refine ⟨m + 1, Nat.le_refl _, by simp [hp, List.range_succ], fun i hi => ?_, .inl rfl⟩
        obtain h | rfl := Nat.lt_succ_iff_lt_or_eq.mp hi
        · exact passed i h
        · exact hp
      | false => exact ⟨m, Nat.le_succ m, by simp [hp], passed, .inr hp⟩
    · rw [if_neg (by simpa [taken] using all), taken]
      exact ⟨m, Nat.le_succ_of_le hm, rfl, passed, .inr (stopped.resolve_left all)⟩

/-- The run ends at the end of the block or before a word that is not in use. -/
theorem pieceRun_spec (c kMax k start : Nat) : pieceRun c kMax k start ≤ 16 - start % 16 ∧
    (∀ i < pieceRun c kMax k start, inLags c kMax k (start + i) = true) ∧
    (pieceRun c kMax k start = 16 - start % 16 ∨ inLags c kMax k (start + pieceRun c kMax k start) = false) := by
  obtain ⟨m, hm, taken, passed, stopped⟩ := takeWhile_range (fun i => inLags c kMax k (start + i)) (16 - start % 16)
  have run : pieceRun c kMax k start = m := by rw [pieceRun, taken, List.length_range]
  rw [run]
  exact ⟨hm, passed, stopped⟩

/-- Settles O23: the piece begins at the first word in use that is not passed, and its run is the longest in the block. -/
theorem clearPieceIsMaximalRun : Obligations.ClearPieceIsMaximalRun := by
  intro c kMax k cursor hk
  obtain ⟨block, passed, stopped⟩ := pieceRun_spec c kMax k (pieceStart kMax k cursor)
  rw [nextTablePiece_eq]
  constructor
  · intro start n h
    split at h
    · rename_i first
      obtain ⟨rfl, rfl⟩ := Prod.mk.inj (Option.some.inj h)
      have room : pieceStart kMax k cursor % 16 < 16 := Nat.mod_lt _ (by decide)
      have begun : 1 ≤ pieceRun c kMax k (pieceStart kMax k cursor) := by
        refine Nat.one_le_iff_ne_zero.mpr fun empty => ?_
        rw [empty] at stopped
        obtain full | refused := stopped
        · omega
        · exact absurd first (Bool.eq_false_iff.mp refused)
      refine ⟨le_pieceStart hk, fun x hx hlt both => pieceStart_skips hk hx hlt both.2, begun, by omega,
        fun i hi => (inLags_iff c kMax k _).mp (passed i hi), ?_⟩
      obtain full | refused := stopped
      · exact .inl (by omega)
      · exact .inr fun both => Bool.eq_false_iff.mp refused ((inLags_iff c kMax k _).mpr both)
    · cases h
  · intro h x hx
    split at h
    · cases h
    · rename_i refused
      exact pieceStart_beyond hk (Bool.eq_false_iff.mpr refused) hx

end Sys2Proof.Machine
end

section
/-! PROOFS. CLEAR_SWEEP and CLEAR_SLOT piece by piece (R25, R26, R82, R83), and how a sweep's work ends in the engine: at a FAULT, after the
sweep has left, and behind abandoned work (R27, R44, R45, R146, R147). -/

namespace Sys2Proof.Machine

/-! ### The rows that bring an answer -/

/-- The engine acts on the answer to its transfer. -/
theorem State.engineAnswer_at {s m : State} {o : Outstanding} (hm : m = s.caughtUp) (ho : m.awaits .engine o) (a : DramAnswer) :
    exec (.engineTransferAnswer a) s = .next (State.settle
      ((m.answeredFor .engine o a).engineAnswered (answerOk a) (m.memory.answerWords o.transfer a))) := by
  have answered : m.attemptAnswered a = (m.answeredFor .engine o a).engineAnswered _ _ := State.attemptAnswered_client ho a
  rw [← answered]
  exact State.laterEvent_at hm ho.clientDue

/-- The Stack Unit acts on the answer to its transfer. -/
theorem State.stackAnswer_at {s m : State} {o : Outstanding} (hm : m = s.caughtUp) (ho : m.awaits .stackUnit o) (a : DramAnswer) :
    exec (.stackUnitTransferAnswer a) s = .next (State.settle
      ((m.answeredFor .stackUnit o a).stackAnswered (answerOk a) (m.memory.answerWords o.transfer a))) := by
  have answered : m.attemptAnswered a = (m.answeredFor .stackUnit o a).stackAnswered _ _ := State.attemptAnswered_client ho a
  rw [← answered]
  exact State.laterEvent_at hm ho.clientDue

/-! ### CLEAR of a sweep's area (R26) -/

/-- A CLEAR with no piece left ends. -/
theorem State.continueClear_ends {s : State} {e cursor : Nat} {w : Sweep} (hw : s.sweep? e = some w)
    (h : s.sweepClearPiece w cursor = none) : s.continueClear e cursor = { s with engine := { s.engine with work := none } } := by
  simp only [State.continueClear, hw, h]

/-- Otherwise it writes zeros to the next piece. -/
theorem State.continueClear_next {s : State} {e cursor start n : Nat} {w : Sweep} (hw : s.sweep? e = some w)
    (h : s.sweepClearPiece w cursor = some (start, n)) : s.continueClear e cursor =
      s.issueEngine ⟨e, w.tag, false, .clear (start + n)⟩ (.write (s.areaBase e + 4 * start) (List.replicate n 0)) := by
  simp only [State.continueClear, hw, h]

/-- An answer OK brings the next piece. -/
theorem State.engineAnswered_clear {s : State} {e tag cursor : Nat} (h : s.engine.work = some ⟨e, tag, false, .clear cursor⟩)
    (words : List Word) : s.engineAnswered true words = s.continueClear e cursor := by
  simp [State.engineAnswered, h]

/-- The accumulators come first. -/
theorem State.sweepClearPiece_table {s : State} {w : Sweep} {cursor : Nat} {piece : Nat × Nat}
    (h : nextTablePiece s.geometry.c s.geometry.kMax w.lags cursor = some piece) : s.sweepClearPiece w cursor = some piece := by
  simp only [State.sweepClearPiece, h]

/-- A STORED pilot has no words in the area. -/
theorem State.sweepClearPiece_stored {s : State} {w : Sweep} {cursor id : Nat}
    (h : nextTablePiece s.geometry.c s.geometry.kMax w.lags cursor = none) (hp : w.pilot = .stored id) :
    s.sweepClearPiece w cursor = none := by
  simp only [State.sweepClearPiece, h, hp]

/-- The words of a CAPTURED pilot follow the accumulators, in pieces within 64-byte blocks. -/
theorem State.sweepClearPiece_captured {s : State} {w : Sweep} {cursor aux first start : Nat}
    (h : nextTablePiece s.geometry.c s.geometry.kMax w.lags cursor = none) (hp : w.pilot = .captured aux)
    (hfirst : first = s.geometry.tableSize / 4) (hstart : start = max cursor first) : s.sweepClearPiece w cursor =
      if start < first + (w.length + 1) / 2
      then some (start, min (first + (w.length + 1) / 2 - start) (16 - start % 16)) else none := by
  subst hfirst hstart
  simp only [State.sweepClearPiece, h, hp, pieceLength, Nat.mul_div_cancel_left _ (show 0 < 4 by decide)]

/-! ### CLEAR of a slot's sums (R83) -/

/-- A CLEAR with no piece left ends. -/
theorem State.continueSlotClear_ends {s : State} {i cursor : Nat} {faulted : Bool}
    (h : nextTablePiece s.geometry.c s.geometry.kMax (s.slotEntry i).lags cursor = none) :
    s.continueSlotClear i cursor faulted = s.stackItemEnds := by
  simp only [State.continueSlotClear, h]

/-- Otherwise it writes zeros to the next piece. -/
theorem State.continueSlotClear_next {s : State} {i cursor start n : Nat} {faulted : Bool}
    (h : nextTablePiece s.geometry.c s.geometry.kMax (s.slotEntry i).lags cursor = some (start, n)) :
    s.continueSlotClear i cursor faulted =
      s.issueStack ⟨.clear i (start + n), faulted⟩ (.write (s.sumsBase i + 4 * start) (List.replicate n 0)) := by
  simp only [State.continueSlotClear, h]

/-- An answer OK brings the next piece. -/
theorem State.stackAnswered_clear {s : State} {i cursor : Nat} {faulted : Bool}
    (h : s.stackUnit.work = some ⟨.clear i cursor, faulted⟩) (words : List Word) :
    s.stackAnswered true words = s.continueSlotClear i cursor faulted := by
  simp [State.stackAnswered, h, State.slotClearAnswered]

/-- Settles O24: each item takes its first piece, and each answer OK brings the next one or the end. -/
theorem clearsInPieces : Obligations.ClearsInPieces := by
  refine ⟨?_, ?_, ?_, ?_, ?_⟩
  · intro s m e start n w rest hm he hw hpiece
    have taken : m.takeClear = State.continueClear { m with engine := ⟨rest, none⟩ } e 0 := by
      simp only [State.takeClear, he]
    have due : m.clearSweepDue = true := by simp [State.clearSweepDue, he]
    have row : exec .clearSweep s = .next m.takeClear.settle := State.laterEvent_at hm due
    rw [row, taken, State.continueClear_next (s := { m with engine := ⟨rest, none⟩ }) hw hpiece]
    rfl
  · intro s m x e tag cursor w o hm ho hx hwork hw
    have answered : x.engineAnswered true (m.memory.answerWords o.transfer .ok) = x.continueClear e cursor :=
      State.engineAnswered_clear (by rw [hx]; exact hwork) _
    have sweep : x.sweep? e = some w := by rw [hx]; exact hw
    rw [State.engineAnswer_at hm ho, ← hx, answerOk, answered]
    refine ⟨fun hpiece => ?_, fun start n hpiece => ?_⟩
    · rw [State.continueClear_ends sweep (by rw [hx]; exact hpiece), hx]
      rfl
    · rw [State.continueClear_next sweep (by rw [hx]; exact hpiece), hx]
      rfl
  · intro s w cursor
    refine ⟨fun piece => State.sweepClearPiece_table, fun h => ⟨fun id => State.sweepClearPiece_stored h, ?_⟩⟩
    intro aux first start hp hfirst hstart
    rw [State.sweepClearPiece_captured h hp hfirst hstart]
    exact ⟨fun hle => if_neg (Nat.not_lt.mpr hle), fun hlt => if_pos hlt⟩
  · intro s m i start n rest hm hu hpiece
    have taken : m.takeClearSlot = State.continueSlotClear { m with stackUnit := ⟨rest, none⟩ } i 0 false := by
      simp only [State.takeClearSlot, hu]
    have due : m.clearSlotDue = true := by simp [State.clearSlotDue, hu]
    have row : exec .clearSlot s = .next m.takeClearSlot.settle := State.laterEvent_at hm due
    rw [row, taken, State.continueSlotClear_next (s := { m with stackUnit := ⟨rest, none⟩ }) hpiece]
    rfl
  · intro s m x i cursor faulted o hm ho hx hwork
    have answered : x.stackAnswered true (m.memory.answerWords o.transfer .ok) = x.continueSlotClear i cursor faulted :=
      State.stackAnswered_clear (by rw [hx]; exact hwork) _
    rw [State.stackAnswer_at hm ho, ← hx, answerOk, answered]
    refine ⟨fun hpiece => ?_, fun start n hpiece => ?_⟩
    · rw [State.continueSlotClear_ends (by rw [hx]; exact hpiece), hx]
      rfl
    · rw [State.continueSlotClear_next (by rw [hx]; exact hpiece), hx]
      rfl

/-! ### The work of a sweep is skipped (R26, R27) -/

/-- The rest of a CLEAR is skipped. -/
theorem State.skipWork_clear {s : State} {work : EngineWork} {cursor : Nat} (h : work.job = .clear cursor) :
    s.skipWork work = { s with engine := { s.engine with work := none } } := by
  simp only [State.skipWork, h]

/-- The sweep's part of a PROCESS is skipped, and the item goes on with the sweeps after it. -/
theorem State.skipWork_process {s : State} {work : EngineWork} {t : Nat} {phase : ProcessPhase} (h : work.job = .process t phase) :
    s.skipWork work = State.serveFrom t ((List.range 24).filter (fun j => work.entry < j))
      { s with engine := { s.engine with work := none } } := by
  simp only [State.skipWork, h]
  rfl

/-- A FAULT ends the sweep, unless it has left, and is reported; its work is skipped (R44, R45). -/
theorem State.engineAnswered_fault {s : State} {work : EngineWork} (h : s.engine.work = some work) (words : List Word) :
    s.engineAnswered false words = State.skipWork (State.partFault
      (if work.left = true then s else s.leaveCorrelation work.entry .faultAborted) work.job.operation work.tag) work := by
  simp only [State.engineAnswered, h, if_true]

/-- An answer OK for a sweep that has left is discarded (R45). -/
theorem State.engineAnswered_left {s : State} {work : EngineWork} (h : s.engine.work = some work) (left : work.left = true)
    (words : List Word) : s.engineAnswered true words = s.skipWork work := by
  simp [State.engineAnswered, h, left]

/-- Settles O27: the answer leaves `y`, in which the sweep's work is skipped. -/
theorem engineFaultAborts : Obligations.EngineFaultAborts := by
  intro s m x y o work a code hm ho hx hwork hcode hleft hy
  have work_x : x.engine.work = some work := by rw [hx]; exact hwork
  have operation : work.job.operation.code = code := by
    rw [hcode]
    unfold EngineJob.operation
    split <;> simp_all [PartOperation.code]
  have skipped : x.engineAnswered (answerOk a) (m.memory.answerWords o.transfer a) = y.skipWork work := by
    cases a with
    | ok =>
      rw [hy, if_pos rfl]
      exact State.engineAnswered_left work_x (hleft rfl) _
    | fault landed =>
      rw [hy, if_neg (by simp), ← operation]
      exact State.engineAnswered_fault work_x _
  rw [State.engineAnswer_at hm ho, ← hx, skipped]
  refine ⟨fun cursor hjob => ?_, fun t phase hjob => ?_⟩
  · rw [State.skipWork_clear hjob]
  · rw [State.skipWork_process hjob]

/-! ### Abandoned work (R146, R147) -/

/-- The answer to an abandoned transfer is discarded, and the client presents what waited behind it. -/
theorem State.attemptAnswered_abandoned {m : State} {c : Client} {o : Outstanding} (a : DramAnswer)
    (hattempt : m.port.attempt = some .part) (hcurrent : m.port.current = some c) (hout : (m.port.client c).out = some o)
    (habandoned : o.abandoned = true) :
    m.attemptAnswered a =
      State.discardedAnswer { m with memory := m.memory.attempt o.transfer a, port := m.port.clientAnswered c } c := by
  simp only [State.attemptAnswered, State.partAttempt, hattempt, hcurrent, hout, habandoned, if_true]

/-- The engine's item goes on when its sweep has left (R27). -/
theorem State.discardedAnswer_left {s : State} {work : EngineWork} (h : s.engine.work = some work) (left : work.left = true) :
    s.discardedAnswer .engine = s.skipWork work := by
  simp [State.discardedAnswer, h, left]

/-- In every other case nothing more happens. -/
theorem State.discardedAnswer_quiet {s : State} {c : Client}
    (h : c = .engine → ∀ work, s.engine.work = some work → work.left = false) :
    s.discardedAnswer c = s := by
  cases c with
  | engine =>
    unfold State.discardedAnswer
    cases hw : s.engine.work with
    | none => rfl
    | some work => simp [h rfl work hw]
  | stackUnit | pilotUnit | drqFetch | reportUnit => rfl

/-- Settles O28: the answer leaves `x`, in which the engine's item goes on when its sweep has left. -/
theorem abandonedAttemptsFinish : Obligations.AbandonedAttemptsFinish := by
  refine ⟨?_, ?_⟩
  · intro s m x c o a i hm hattempt hcurrent hout habandoned hi
    refine ⟨fun p => rfl, fun hx => ?_⟩
    have due : m.clientDue c = true := by simp [State.clientDue, hattempt, hcurrent]
    have answered : m.attemptAnswered a = x.discardedAnswer c := by
      rw [State.attemptAnswered_abandoned a hattempt hcurrent hout habandoned, hx]
      rfl
    have row : exec i s = .next (State.settle (x.discardedAnswer c)) := by
      rw [← answered]
      simp only [List.mem_cons, Prod.mk.injEq, List.not_mem_nil, or_false] at hi
      obtain ⟨rfl, rfl⟩ | ⟨rfl, rfl⟩ := hi <;> exact State.laterEvent_at hm due
    have engine : x.engine = m.engine := by rw [hx]
    rw [row]
    refine ⟨fun quiet => ?_, fun work hc hwork left => ?_⟩
    · rw [State.discardedAnswer_quiet (fun hc => by rw [engine]; exact quiet hc)]
    · subst hc
      rw [State.discardedAnswer_left (engine ▸ hwork) left, ← engine]
      refine ⟨fun cursor hjob => ?_, fun t phase hjob => ?_⟩
      · rw [State.skipWork_clear hjob]
      · rw [State.skipWork_process hjob]
  · intro s m t landed hm hleft
    have due : m.abandonedDue = true := by simp [State.abandonedDue, hleft]
    have finished : m.abandonedFinished landed = { m with
        memory := m.memory.attempt t (.fault landed), port := { m.port with abandoned := none } } := by
      simp only [State.abandonedFinished, hleft]
    have row : exec (.abandonedAttemptFinished landed) s = .next (m.abandonedFinished landed).settle := State.laterEvent_at hm due
    rw [row, finished]
    cases t <;> rfl

end Sys2Proof.Machine
end

section
/-! PROOFS. READ_STATE and READ_SWEEP (R46, R159, R182), the three events of ENGINE_RESET (R47, R99, R160 to R162), and the channel
commands (R30, R70, R71). -/

namespace Sys2Proof.Machine

/-! ### READ_STATE and READ_SWEEP (R46, R159) -/

/-- A tag that no live sweep holds is not found. -/
theorem State.findTag_none {m : State} {tag : Nat} (h : ∀ p ∈ m.liveSweeps, p.2.tag ≠ tag) : m.findTag tag = none :=
  List.find?_eq_none.mpr fun p hp => by simpa using h p hp

/-- The words of a scan number that may be none (R182). -/
theorem scanWords_eq (n : Option Nat) : scanWords n = match n with
    | none => [0, 0x80000000]
    | some n => [word n, word (n / 2 ^ 32)] := by
  cases n <;> rfl

theorem State.stateWords_eq (m : State) : m.stateWords =
    [word (m.mode.code + 256 * m.requestedMode.code)] ++ scanWords m.assembler.newest ++
      [word m.liveSweeps.length, word ((m.directory.filter (fun d => d.state != .free)).length + 2 ^ 16 * m.drqInUse.length),
        word m.assembler.staging.length] := rfl

theorem outcomeCode_eq (o : Option SweepOutcome) : outcomeCode o = match o with
    | none => 0
    | some o => o.code := by
  cases o <;> rfl

theorem setSize_eq (a : Option (List Nat)) : setSize a = (a.getD []).length := by
  cases a <;> rfl

theorem Sweep.resultWords_eq (w : Sweep) : w.resultWords =
    [word (w.state.code + 256 * outcomeCode w.outcome + 2 ^ 16 * (if w.gapped = true then 1 else 0))] ++ scanWords w.lastScan ++
      [word (w.activeSet.getD []).length, word w.holedSet.length, 0] := by
  rw [← setSize_eq]
  rfl

/-- Settles O47: the rules end the command with the words held. -/
theorem readCommands : Obligations.ReadCommands := by
  intro s m q hm
  refine ⟨fun heads => ?_, fun heads => ?_, fun tag => State.findTag_none⟩
  · have row : exec .readState s = .next (m.readStateRule q).settle := State.command_at hm heads
    have words := State.stateWords_eq m
    rw [scanWords_eq] at words
    exact row.trans (congrArg (fun ws => Host.Outcome.next (State.settle (m.endCommand .ok (some ws)))) words)
  · have row : exec .readSweep s = .next (m.readSweepRule q).settle := State.command_at hm heads
    refine ⟨fun unheld => ?_, fun e w found => ?_⟩
    · rw [row, State.readSweepRule, unheld]
    · have ends : m.readSweepRule q = m.endCommand .ok (some w.resultWords) := by rw [State.readSweepRule, found]
      have words := Sweep.resultWords_eq w
      rw [scanWords_eq, outcomeCode_eq] at words
      rw [row, ends]
      exact congrArg (fun ws => Host.Outcome.next (State.settle (m.endCommand .ok (some ws)))) words

/-! ### ENGINE_RESET (R160 to R162) -/

/-- The slot states that ENGINE_RESET frees. -/
theorem SlotState.unsealed_eq (x : SlotState) : x.unsealed = [.opened, .complete, .sealing].contains x := by
  cases x <;> rfl

theorem State.unsealedSlots_eq (m : State) :
    m.unsealedSlots = (List.range 32).filter (fun i => [.opened, .complete, .sealing].contains (m.slotEntry i).state) := by
  simp only [State.unsealedSlots, SlotState.unsealed_eq]
  rfl

/-- The second event empties the Scan Assembler; with no PROCESS in progress no transfer is abandoned (R18). -/
theorem State.clearAssembler_quiet {m : State} (h : ∀ w, m.engine.work = some w → ∃ cursor, w.job = .clear cursor) :
    m.clearAssembler = { m with
      assembler := ⟨[], none, none⟩
      engine := { m.engine with list := m.engine.list.filter (fun i => match i with
        | .clear _ => true
        | .process _ => false) } } := by
  unfold State.clearAssembler State.abandonProcess
  split
  · rename_i hwork
    obtain ⟨cursor, hjob⟩ := h _ hwork
    cases hjob
  · rfl
  · rfl

/-- Settles O49: the three events, and the discards of a slot's deferred reads. -/
theorem engineReset : Obligations.EngineReset := by
  refine ⟨?_, ?_, ?_, ?_⟩
  · intro s m x q slots hm heads hx hslots
    have row : exec .engineReset s = .next (m.engineResetRule q).settle := State.command_at hm heads
    have freed : m.resetSweeps.resetStackUnit = x := hx.symm
    have kept : (slots.foldl State.discardStack x).commands = m.commands := by
      rw [State.foldl_commands _ State.discardStack_commands, hx]
    rw [row, State.engineResetRule, State.unsealedSlots_eq, ← hslots, freed, State.setProgress, kept]
    rfl
  · intro s m freed hm hprogress hwork
    have due : m.resetScansDue = true := by simp [State.resetScansDue, hprogress]
    have row : exec .engineResetScanAssembler s = .next m.resetScans.settle := State.laterEvent_at hm due
    have emptied : m.resetScans = m.clearAssembler.setProgress (.engineReset freed true) := by
      simp only [State.resetScans, hprogress]
    rw [row, emptied, State.clearAssembler_quiet hwork]
    rfl
  · intro s m freed q rest hm hprogress hqueue
    have due : m.resetDoneDue = true := by simp [State.resetDoneDue, hprogress]
    have row : exec .engineResetDone s = .next m.resetDone.settle := State.laterEvent_at hm due
    rw [row]
    simp only [State.resetDone, hprogress, hqueue]
    rfl
  · intro s slot code reason hcode
    have reasonCode : reason.code = code := by
      simp only [List.mem_cons, Prod.mk.injEq, List.not_mem_nil, or_false] at hcode
      obtain ⟨rfl, rfl⟩ | ⟨rfl, rfl⟩ | ⟨rfl, rfl⟩ := hcode <;> rfl
    rw [← reasonCode]
    rfl

/-! ### MUTE_CHANNEL and UNMUTE_CHANNEL (R70, R71) -/

/-- A mute reaches the sweeps whose active set is fixed and not frozen (R30). -/
theorem SweepState.mutable_iff (x : SweepState) : x.mutable = true ↔ x = .correlating ∨ x = .stalled ∨ x = .foldWait := by
  cases x <;> simp [SweepState.mutable]

/-- Settles O53: the rules of both commands in every condition, and the reach of a mute. -/
theorem channelCommands : Obligations.ChannelCommands := by
  refine ⟨?_, ?_⟩
  · intro s m q c x hm hc hx
    subst hc hx
    refine ⟨fun heads => ?_, fun heads => ?_⟩
    · have row : exec .muteChannel s = .next (m.muteRule q).settle := State.command_at hm heads
      rw [row]
      unfold State.muteRule
      refine ⟨fun beyond => by rw [if_pos beyond], fun within muted => ?_, fun within audible => ?_⟩
      · rw [if_neg (Nat.not_le.mpr within), if_pos muted]
      · rw [if_neg (Nat.not_le.mpr within), if_neg audible]
        rfl
    · have row : exec .unmuteChannel s = .next (m.unmuteRule q).settle := State.command_at hm heads
      rw [row]
      unfold State.unmuteRule
      refine ⟨fun beyond => by rw [if_pos beyond], fun within good => ?_, fun within worse => ?_⟩
      · simp only [if_neg (Nat.not_le.mpr within), if_pos good]
        rfl
      · simp only [if_neg (Nat.not_le.mpr within), if_neg worse]
        rfl
  · intro s c
    simp only [← SweepState.mutable_iff]
    rfl

end Sys2Proof.Machine
end

section
/-! PROOFS. How a sweep enters the correlation states (R22, R23) and how it leaves them (R36, R38). -/

namespace Sys2Proof.Machine

/-! ### Leaving the correlation states (R36) -/

/-- Once the sweep of an entry is in no correlation state, only the other sweeps count (R40). -/
theorem State.anyCorrelation_setSweep {s : State} {e : Nat} {v : Sweep} (hv : v.state.correlation = false) :
    (s.setSweep e (some v)).anyCorrelation = s.liveSweeps.any (fun p => p.1 != e && p.2.state.correlation) := by
  have others : ∀ j u, j ≠ e → ((j, u) ∈ (s.setSweep e (some v)).liveSweeps ↔ (j, u) ∈ s.liveSweeps) := by
    intro j u hj
    rw [State.mem_liveSweeps, State.mem_liveSweeps, State.setSweep_sweeps, List.getElem?_set_ne (Ne.symm hj)]
  have itself : ∀ u, (e, u) ∈ (s.setSweep e (some v)).liveSweeps → u = v := by
    intro u hu
    rw [State.mem_liveSweeps, State.setSweep_sweeps, List.getElem?_set_self'] at hu
    obtain ⟨_, _, h⟩ := Option.map_eq_some_iff.mp hu
    exact (Option.some.inj h).symm
  rw [Bool.eq_iff_iff, State.anyCorrelation, List.any_eq_true, List.any_eq_true]
  constructor
  · rintro ⟨⟨j, u⟩, hmem, hu⟩
    by_cases hj : j = e
    · subst hj
      rw [itself u hmem, hv] at hu
      cases hu
    · exact ⟨(j, u), (others j u hj).mp hmem, by simpa [hj] using hu⟩
  · rintro ⟨⟨j, u⟩, hmem, hu⟩
    obtain ⟨hj, hu⟩ : j ≠ e ∧ u.state.correlation = true := by simpa using hu
    exact ⟨(j, u), (others j u hj).mpr hmem, hu⟩

theorem State.stopIdleTimer_eq (s : State) : s.stopIdleTimer = { s with sweeps := { s.sweeps with
    stallTimer := if s.anyCorrelation then s.sweeps.stallTimer else none } } := by
  unfold State.stopIdleTimer
  split <;> rfl

theorem Port.sweepLeft_eq (p : Port) (work : Option EngineWork) (e : Nat) : p.sweepLeft work e = { p with engine := { p.engine with
    next := if work.any (fun x => x.entry == e) = true then none else p.engine.next } } := by
  unfold Port.sweepLeft
  split <;> rfl

/-- Settles O51: the five steps of R36 as one update, and the three answers of CANCEL_SWEEP. -/
theorem sweepLeavesCorrelation : Obligations.SweepLeavesCorrelation := by
  refine ⟨?_, ?_⟩
  · intro s e w outcome hw
    unfold State.leaveCorrelation
    have left := State.anyCorrelation_setSweep (s := s) (e := e) (v := { w with outcome := some outcome, state := .foldWait }) rfl
    simp only [hw, State.stopIdleTimer_eq, Port.sweepLeft_eq, ← left]
    cases w.pilot <;> rfl
  · intro s m q hm heads
    have row : exec .cancelSweep s = .next (m.cancelRule q).settle := State.command_at hm heads
    rw [row]
    unfold State.cancelRule
    refine ⟨fun unheld => by rw [unheld], fun e w found => ?_⟩
    rw [found]
    refine ⟨fun gone => ?_, fun correlates => ?_⟩
    · have out : w.state.correlation = false := by
        rcases gone with h | h <;> (rw [h]; rfl)
      simp [out]
    · simp only [(SweepState.correlation_iff w.state).mpr correlates, if_true]

/-! ### The checks of NOTICE_SWEEP (R22) -/

theorem NoticePilot.inRange_iff (p : NoticePilot) (g : Geometry) : p.inRange g = true ↔
    (∃ id, p = .stored id ∧ id ≤ 15) ∨ ∃ aux l, p = .captured aux l ∧ aux < g.c ∧ 64 ≤ l ∧ l ≤ g.lMax := by
  cases p with
  | stored id => simp [NoticePilot.inRange, Config.pilotCount, Nat.lt_succ_iff]
  | captured aux l => simp [NoticePilot.inRange, and_assoc]
  | neither => simp [NoticePilot.inRange]

/-- A pilot description that check 1 refuses. -/
theorem NoticePilot.inRange_eq_false {p : NoticePilot} {g : Geometry} (h : p = .neither ∨ (∃ id, p = .stored id ∧ 15 < id) ∨
    ∃ aux l, p = .captured aux l ∧ (g.c ≤ aux ∨ l < 64 ∨ g.lMax < l)) : p.inRange g = false := by
  rw [Bool.eq_false_iff, Ne, NoticePilot.inRange_iff]
  rcases h with rfl | ⟨id, rfl, hid⟩ | ⟨aux, l, rfl, hl⟩
  · simp
  · simpa using hid
  · simp only [reduceCtorEq, false_and, exists_false, false_or, NoticePilot.captured.injEq]
    rintro ⟨_, _, ⟨rfl, rfl⟩, hc, hlow, hhigh⟩
    omega

/-- Check 1 of R22 passes. -/
def NoticeOperands.formed (o : NoticeOperands) (g : Geometry) : Prop :=
  ¬ (o.tag = 0 ∨ o.sourcePoint = 0 ∨ Config.scanTop < o.start ∨ o.pilot.inRange g = false)

theorem NoticeOperands.formed_of {o : NoticeOperands} {g : Geometry} (tag : 1 ≤ o.tag) (point : 1 ≤ o.sourcePoint)
    (start : o.start ≤ 2 ^ 48 - 1) (pilot : o.pilot.inRange g = true) : o.formed g := by
  rintro (h | h | h | h)
  · omega
  · omega
  · exact Nat.not_lt.mpr start h
  · simp [pilot] at h

/-- What is left to check once the tag is new and the source point's slot is found: checks 4 to 8. -/
theorem State.noticeStatus_found {s : State} {o : NoticeOperands} {i : Nat} (form : o.formed s.geometry)
    (untagged : s.findTag o.tag = none) (found : s.findSourcePoint o.sourcePoint = some i) : s.noticeStatus o =
      if (s.slotEntry i).state ≠ .opened then .badState
      else if (s.slotEntry i).notices = (s.slotEntry i).foldTarget then .noRoom
      else if s.noticePilotReady o.pilot = false then .notReady
      else if s.isLate o.start = true then .late
      else if s.freeSweepEntry.isNone = true then .noRoom
      else .ok := by
  unfold State.noticeStatus
  rw [if_neg form, untagged, found]
  rfl

/-- A stored pilot that is not READY fails check 6. -/
theorem State.noticePilotReady_false {s : State} {p : NoticePilot} {id : Nat} (hp : p = .stored id)
    (h : (s.pilotEntry id).state ≠ .ready) : s.noticePilotReady p = false := by
  simp [hp, State.noticePilotReady, h]

/-- Every other pilot in range passes it. -/
theorem State.noticePilotReady_true {s : State} {p : NoticePilot} (range : p.inRange s.geometry = true)
    (h : ∀ id, p = .stored id → (s.pilotEntry id).state = .ready) : s.noticePilotReady p = true := by
  cases p with
  | stored id => simp [State.noticePilotReady, h id rfl]
  | captured aux l => rfl
  | neither => cases range

theorem State.isLate_iff (s : State) (start : Nat) : s.isLate start = true ↔ ∃ n, s.assembler.newest = some n ∧ start ≤ n := by
  unfold State.isLate
  cases s.assembler.newest <;> simp

/-- Every newest scan number below the start scan leaves it in time. -/
theorem State.isLate_false {s : State} {start : Nat} (h : ∀ n, s.assembler.newest = some n → n < start) : s.isLate start = false := by
  rw [Bool.eq_false_iff, Ne, State.isLate_iff]
  rintro ⟨n, hn, hle⟩
  exact Nat.not_lt.mpr hle (h n hn)

/-- The table is full. -/
theorem State.freeSweepEntry_none {s : State} (h : none ∉ s.sweeps.table) : s.freeSweepEntry = none := by
  refine List.findIdx?_eq_none_iff.mpr fun x hx => ?_
  cases x with
  | none => exact absurd hx h
  | some w => rfl

/-- The lowest free entry. -/
theorem State.freeSweepEntry_some {s : State} {e : Nat} (he : s.sweeps.table[e]? = some none)
    (h : ∀ j < e, s.sweeps.table[j]? ≠ some none) : s.freeSweepEntry = some e := by
  obtain ⟨he, free⟩ := List.getElem?_eq_some_iff.mp he
  refine List.findIdx?_eq_some_iff_getElem.mpr ⟨he, by simp [free], fun j hj => ?_⟩
  have used : s.sweeps.table[j] ≠ none := fun hn => h j hj (List.getElem?_eq_some_iff.mpr ⟨by omega, hn⟩)
  simpa using used

/-- A NOTICE_SWEEP that fails a check ends with its status and does nothing else. -/
theorem State.noticeRule_refused {s : State} {q : QueueEntry} {status : Status} (h : s.noticeStatus q.noticeOperands = status)
    (refused : status ≠ .ok) : s.noticeRule q = s.endCommand status := by
  unfold State.noticeRule
  simp only [h]
  split
  · exact absurd rfl refused
  · rfl

/-! ### The admission (R23) -/

/-- One that passes them enters its sweep. -/
theorem State.noticeRule_taken {s : State} {q : QueueEntry} {i e : Nat} (h : s.noticeStatus q.noticeOperands = .ok)
    (found : s.findSourcePoint q.noticeOperands.sourcePoint = some i) (free : s.freeSweepEntry = some e) :
    s.noticeRule q = (s.enterSweep q.noticeOperands i e).endCommand .ok := by
  simp only [State.noticeRule, h, found, free]

/-- The pilot that an admission claims: the sweep's reference to it, its length, and the Pilot Table afterwards. -/
def State.claims (m : State) (p : NoticePilot) (pilot : PilotRef) (length : Nat) (pilots : List PilotEntry) : Prop :=
  (∃ id, p = .stored id ∧ pilot = .stored id ∧ length = (m.pilotEntry id).length ∧
    pilots = m.pilots.set id { m.pilotEntry id with useCount := (m.pilotEntry id).useCount + 1 }) ∨
  ∃ aux, p = .captured aux length ∧ pilot = .captured aux ∧ pilots = m.pilots

theorem State.claims.newSweep {m : State} {o : NoticeOperands} {pilot : PilotRef} {length : Nat} {pilots : List PilotEntry}
    (h : m.claims o.pilot pilot length pilots) {i : Nat} {d : DirEntry} (hd : m.slotEntry i = d) : m.newSweep o i =
      ⟨o.tag, o.sourcePoint, i, o.start, pilot, length, d.lags, d.first, d.last, d.gapFirst, d.gapLast, none, none, [], .noticed, none,
        false, none, 0⟩ := by
  subst hd
  obtain ⟨id, hp, rfl, rfl, -⟩ | ⟨aux, hp, rfl, -⟩ := h
  all_goals simp only [State.newSweep, hp]

theorem State.claims.claimPilot {m : State} {p : NoticePilot} {pilot : PilotRef} {length : Nat} {pilots : List PilotEntry}
    (h : m.claims p pilot length pilots) {x : State} (hx : x.pilots = m.pilots) : x.claimPilot p = { x with pilots := pilots } := by
  obtain ⟨id, rfl, -, -, rfl⟩ | ⟨aux, rfl, -, rfl⟩ := h
  · simp only [State.claimPilot, State.setPilot, State.pilotEntry, hx]
  · rw [← hx]
    rfl

/-- The admission of R23 as one update. -/
theorem State.enterSweep_eq {m : State} {o : NoticeOperands} {i e length : Nat} {d : DirEntry} {pilot : PilotRef}
    {pilots : List PilotEntry} (h : m.claims o.pilot pilot length pilots) (hd : m.slotEntry i = d) : m.enterSweep o i e = { m with
      sweeps := { m.sweeps with
        table := m.sweeps.table.set e (some ⟨o.tag, o.sourcePoint, i, o.start, pilot, length, d.lags, d.first, d.last, d.gapFirst,
          d.gapLast, none, none, [], .noticed, none, false, none, 0⟩)
        stallTimer := if m.anyCorrelation = true then m.sweeps.stallTimer else some m.sweeps.stallPeriod }
      directory := m.directory.set i { d with notices := d.notices + 1 }
      reports := { m.reports with stale := m.reports.stale.set i true }
      pilots := pilots
      engine := { m.engine with list := m.engine.list ++ [.clear e] } } := by
  unfold State.enterSweep
  simp only [h.newSweep hd, hd]
  rw [h.claimPilot (x := (m.setSweep e _).setSlot i _) rfl]
  split <;> rfl

/-- Settles O50: the first check that fails gives the status, and a command that passes all eight enters its sweep. -/
theorem noticeSweep : Obligations.NoticeSweep := by
  refine ⟨?_, ?_⟩
  · intro s m q o i d hm heads ho hd
    have row : exec .noticeSweep s = .next (m.noticeRule q).settle := State.command_at hm heads
    have refused : ∀ {status : Status}, m.noticeStatus o = status → status ≠ .ok →
        exec .noticeSweep s = .next (State.settle (m.endCommand status)) := by
      intro status h hne
      rw [row, State.noticeRule_refused (ho ▸ h) hne]
    refine ⟨fun bad => ?_, fun tag point start pilot => ?_⟩
    · refine refused (if_pos ?_) nofun
      obtain h | h | h | h := bad
      · exact .inl h
      · exact .inr (.inl h)
      · exact .inr (.inr (.inl h))
      · exact .inr (.inr (.inr (NoticePilot.inRange_eq_false h)))
    · have range := (NoticePilot.inRange_iff o.pilot m.geometry).mpr pilot
      have form := NoticeOperands.formed_of tag point start range
      refine ⟨fun held => ?_, fun untagged unknown => ?_, fun untagged found => ?_⟩
      · refine refused ?_ (by nofun : Status.duplicate ≠ .ok)
        unfold State.noticeStatus
        rw [if_neg form, if_pos (Option.isSome_iff_ne_none.mpr held)]
      · refine refused ?_ (by nofun : Status.unknown ≠ .ok)
        unfold State.noticeStatus
        rw [if_neg form, untagged, unknown]
        rfl
      · have status := State.noticeStatus_found form untagged found
        rw [← hd] at status
        refine ⟨fun closed => ?_, fun opened full => ?_, fun opened room =>
          ⟨?_, fun ready => ⟨fun late => ?_, fun intime full => ?_⟩⟩⟩
        · exact refused (status.trans (if_pos closed)) nofun
        · exact refused (by rw [status, if_neg (not_not.mpr opened), if_pos full]) nofun
        · rintro ⟨id, hp, unready⟩
          exact refused (by rw [status, if_neg (not_not.mpr opened), if_neg room, if_pos (State.noticePilotReady_false hp unready)]) nofun
        · have passed := State.noticePilotReady_true range ready
          have isLate := (State.isLate_iff m o.start).mpr late
          exact refused (by rw [status, if_neg (not_not.mpr opened), if_neg room, passed, isLate]; rfl) nofun
        · have passed := State.noticePilotReady_true range ready
          exact refused (by
            rw [status, if_neg (not_not.mpr opened), if_neg room, passed, State.isLate_false intime, State.freeSweepEntry_none full]
            rfl) nofun
  · intro s m q o i e length d pilot pilots hm heads ho hd tag point start hpilot untagged found opened room intime he hlowest
    have row : exec .noticeSweep s = .next (m.noticeRule q).settle := State.command_at hm heads
    have claims : m.claims o.pilot pilot length pilots := by
      obtain ⟨id, hp, -, -, hr, hl, hs⟩ | ⟨aux, hp, -, -, -, hr, hs⟩ := hpilot
      · exact .inl ⟨id, hp, hr, hl, hs⟩
      · exact .inr ⟨aux, hp, hr, hs⟩
    have range : o.pilot.inRange m.geometry = true := by
      refine (NoticePilot.inRange_iff o.pilot m.geometry).mpr ?_
      obtain ⟨id, hp, hid, -⟩ | ⟨aux, hp, hc, hlow, hhigh, -⟩ := hpilot
      · exact .inl ⟨id, hp, hid⟩
      · exact .inr ⟨aux, length, hp, hc, hlow, hhigh⟩
    have ready : ∀ id, o.pilot = .stored id → (m.pilotEntry id).state = .ready := by
      intro id hid
      obtain ⟨id', hp, -, hready, -⟩ | ⟨aux, hp, -⟩ := hpilot
      · obtain rfl : id' = id := NoticePilot.stored.inj (hp.symm.trans hid)
        exact hready
      · rw [hp] at hid
        cases hid
    have free := State.freeSweepEntry_some he hlowest
    have status := State.noticeStatus_found (NoticeOperands.formed_of tag point start range) untagged found
    rw [← hd, if_neg (not_not.mpr opened), if_neg room, State.noticePilotReady_true range ready, State.isLate_false intime, free]
      at status
    subst ho
    rw [row, State.noticeRule_taken status found free, State.enterSweep_eq claims hd.symm]

end Sys2Proof.Machine
end

section
/-! PROOFS. A write at the upstream port outside the live RAW window: the part that refuses it (R121, R122), and the one that is only
buffered (R58, R121, R123). -/

namespace Sys2Proof.Machine

/-! ### Refused writes (R121, R122) -/

/-- A well-formed write that a part refuses is answered ABORT with one report, whatever room there is (R122). -/
theorem State.decideWrite_refused {s : State} {q : Requester} {a : Nat} {data : List Word} {part : ProtectedPart}
    (hm : malformed a data.length = none) (hr : s.refusal a data.length = some part) :
    s.decideWrite q a data = (s.submit .protect a (some q) part.code).giveAnswer .abort := by
  unfold State.decideWrite
  rw [hm, hr]

/-- The words of a slot refuse a write while the slot is busy. -/
theorem State.controlRefuses_slot {s : State} {offset : Nat} (h : offset < 0x100) (busy : (s.commandSlot (offset / 32)).busy = true) :
    s.controlRefuses offset = some .commandSlot := by
  unfold State.controlRefuses
  rw [if_pos h, if_pos busy]

/-- The producer index word, the mirror and the ring refuse every write. -/
theorem State.controlRefuses_partRegion {s : State} {offset : Nat}
    (h : offset = 0x100 ∨ 0x400 ≤ offset ∧ offset < 0x800 ∨ 0x8000 ≤ offset) : s.controlRefuses offset = some .partRegion := by
  unfold State.controlRefuses
  rw [if_neg (by omega), if_pos h]

/-- The first word that refuses names the part. -/
theorem State.controlRefusal_first {s : State} {a n k : Nat} {part : ProtectedPart} (hk : k < n)
    (before : ∀ j < k, s.controlRefuses (a + 4 * j - s.controlBase) = none)
    (refused : s.controlRefuses (a + 4 * k - s.controlBase) = some part) : s.controlRefusal a n = some part := by
  obtain ⟨rest, rfl⟩ : ∃ rest, n = k + (rest + 1) := ⟨n - k - 1, by omega⟩
  have passed : (List.range k).findSome? (fun j => s.controlRefuses (a + 4 * j - s.controlBase)) = none :=
    List.findSome?_eq_none_iff.mpr fun j hj => before j (List.mem_range.mp hj)
  unfold State.controlRefusal
  rw [List.range_add, List.findSome?_append, passed, List.range_succ_eq_map]
  simp [refused]

/-- The extents that refuse a write are those of the entries in their check or in use (R57). -/
theorem PilotEntry.protects_iff (p : PilotEntry) : p.protects = true ↔ p.state = .checking ∨ p.useCount ≠ 0 := by
  simp [PilotEntry.protects]

/-- A write in the PILOT window is refused when it touches a protected extent. -/
theorem State.refusal_pilot {s : State} {a n : Nat} (hr : s.region a = .pilot)
    (h : ∃ p ∈ s.pilots, (p.state = .checking ∨ p.useCount ≠ 0) ∧ p.extent.meets ⟨a, 4 * n⟩ = true) :
    s.refusal a n = some .pilotExtent := by
  simp only [← PilotEntry.protects_iff] at h
  simp only [State.refusal, hr]
  exact if_pos (by simpa using h)

/-- Settles O12: each way in which a word is protected gives its part, and the part its code. -/
theorem protectedWriteRefused : Obligations.ProtectedWriteRefused := by
  intro s f q a data i code hf hh hm hi touches
  have refused : ∃ part : ProtectedPart, f.refusal a.toNat data.length = some part ∧ part.code = code := by
    obtain ⟨hr, taken, rfl⟩ | ⟨hr, rfl⟩ | ⟨hr, rfl, touched⟩ | ⟨hr, k, hk, before, word⟩ := touches
    · exact ⟨.stackSlot, by simp [State.refusal, hr, taken], rfl⟩
    · exact ⟨.scratch, by simp [State.refusal, hr], rfl⟩
    · exact ⟨.pilotExtent, State.refusal_pilot hr touched, rfl⟩
    · have control : f.refusal a.toNat data.length = f.controlRefusal a.toNat data.length := by simp only [State.refusal, hr]
      obtain ⟨slot, rfl, busy⟩ | ⟨region, rfl⟩ := word
      · exact ⟨.commandSlot, control.trans (State.controlRefusal_first hk before (State.controlRefuses_slot slot busy)), rfl⟩
      · exact ⟨.partRegion, control.trans (State.controlRefusal_first hk before (State.controlRefuses_partRegion region)), rfl⟩
  obtain ⟨part, refusal, rfl⟩ := refused
  rw [State.writeRow_at hf hh hi, State.decideWrite_refused hm refusal]
  rfl

/-! ### Buffered writes (R58, R121, R123) -/

/-- The write buffered. -/
def State.buffered (s : State) (q : Requester) (a : Nat) (data : List Word) : State := { s with pwb := s.pwb ++ [⟨q, a, data⟩] }

@[simp] theorem State.buffered_region (s : State) (q : Requester) (a : Nat) (data : List Word) (b : Nat) :
    (s.buffered q a data).region b = s.region b := rfl
@[simp] theorem State.buffered_liveRaw (s : State) (q : Requester) (a : Nat) (data : List Word) (b : Nat) :
    (s.buffered q a data).liveRaw b = s.liveRaw b := rfl
@[simp] theorem State.buffered_controlBase (s : State) (q : Requester) (a : Nat) (data : List Word) :
    (s.buffered q a data).controlBase = s.controlBase := rfl

/-- A write that no part refuses, that the Scan Assembler does not look at and that finds a place in the buffer: the blocks that own its
words take them, and it is accepted (R123). -/
theorem State.decideWrite_buffered {s : State} {q : Requester} {a : Nat} {data : List Word} (hm : malformed a data.length = none)
    (hr : s.refusal a data.length = none) (plain : s.liveRaw a = none) (place : s.pwb.length < 32) :
    s.decideWrite q a data = ((s.buffered q a data).takeWrite q a data).giveAnswer .accept := by
  have forwards : s.forwards a = true := by simp [State.forwards, plain]
  have opens : s.opensScan q a data = false := by simp [State.opensScan, plain]
  have room : s.hasRoomFor q a data = true := (State.hasRoomFor_iff s q a data).mpr ⟨fun _ => place, by simp [opens]⟩
  rw [State.decideWrite_accept hm hr room, State.forward, if_pos forwards]
  rfl

/-- Outside the Control Area, the live RAW window and the PILOT window no block takes a word. -/
theorem State.takeWrite_untaken {s : State} {q : Requester} {a : Nat} {data : List Word} (control : s.region a ≠ .control)
    (pilot : s.region a ≠ .pilot) (raw : s.liveRaw a = none) : s.takeWrite q a data = s := by
  unfold State.takeWrite
  cases hr : s.region a with
  | control => exact absurd hr control
  | pilot => exact absurd hr pilot
  | raw => simp only [raw]
  | stack | scratch | outside => rfl

/-- In the PILOT window the Pilot Table takes the write (R58). -/
theorem State.takeWrite_pilot {s : State} {q : Requester} {a : Nat} {data : List Word} (hr : s.region a = .pilot) :
    s.takeWrite q a data = s.pilotsWritten ⟨a, 4 * data.length⟩ := by
  simp only [State.takeWrite, hr]

/-- The offsets of the words of the Control Area that belong to no block: neither in a command slot, nor an index word, nor in the mirror,
nor in the ring (12.2). -/
def PlainOffset (offset : Nat) : Prop :=
  0x104 ≤ offset ∧ offset < 0x400 ∧ offset ≠ 0x140 ∨ 0x800 ≤ offset ∧ offset < 0x8000

theorem State.controlRefuses_plain {s : State} {offset : Nat} (h : PlainOffset offset) : s.controlRefuses offset = none := by
  unfold PlainOffset at h
  unfold State.controlRefuses
  rw [if_neg (by omega), if_neg (by omega)]

/-- A write above a slot brings it no word. -/
theorem slotWords_above {base a j : Nat} {data : List Word} (h : base + 32 * j + 32 ≤ a) : slotWords base a data j = [] :=
  List.filterMap_eq_nil_iff.mpr fun _ _ => if_neg (by omega)

theorem State.setCommandSlot_self (s : State) (j : Nat) : s.setCommandSlot j (s.commandSlot j) = s := by
  have same : s.commands.slots.set j (s.commandSlot j) = s.commands.slots := by
    unfold State.commandSlot
    by_cases hj : j < s.commands.slots.length
    · rw [List.getD_eq_getElem _ _ hj, List.set_getElem_self]
    · exact List.set_eq_of_length_le (by omega)
  unfold State.setCommandSlot
  rw [same]

/-- A slot that gets no word stays as it is. -/
theorem State.takeSlotWords_none {s : State} {a j : Nat} {data : List Word} (h : slotWords s.controlBase a data j = []) :
    s.takeSlotWords a data j = s := by
  unfold State.takeSlotWords
  rw [h]
  exact s.setCommandSlot_self j

/-- A write above the command slots brings the Command Unit no word. -/
theorem State.takeCommandWords_above {s : State} {a : Nat} {data : List Word} (h : s.controlBase + 0x100 ≤ a) :
    s.takeCommandWords a data = s := by
  unfold State.takeCommandWords
  refine List.foldlRecOn (motive := (· = s)) _ _ rfl ?_
  rintro _ rfl j hj
  have slot : j < 8 := List.mem_range.mp hj
  exact State.takeSlotWords_none (slotWords_above (by omega))

/-- The Control Area begins on a word. -/
theorem State.controlBase_aligned (s : State) : s.controlBase % 4 = 0 := by
  have step : s.controlBase = 4 * (2 ^ 34 * s.cbase.toNat) := by
    unfold State.controlBase
    rw [← Nat.mul_assoc]
    rfl
  omega

/-- A write with no word at the consumer index word's offset does not include it. -/
theorem State.consumerWord_none {s : State} {a : Nat} {data : List Word} (aligned : a % 4 = 0)
    (h : ∀ k < data.length, a + 4 * k - s.controlBase ≠ 0x140) : s.consumerWord a data = none := by
  have base := s.controlBase_aligned
  refine if_neg fun included => ?_
  exact h ((s.controlBase + 0x140 - a) / 4) (by omega) (by omega)

theorem aligned_of_wellFormed {a n : Nat} (h : malformed a n = none) : n ≠ 0 ∧ a % 4 = 0 := by
  unfold malformed at h
  split_ifs at h
  omega

/-- A write of plain words of the Control Area is refused by none of them. -/
theorem State.refusal_plain {s : State} {a n : Nat} (hr : s.region a = .control)
    (h : ∀ k < n, PlainOffset (a + 4 * k - s.controlBase)) : s.refusal a n = none := by
  simp only [State.refusal, hr]
  exact List.findSome?_eq_none_iff.mpr fun k hk => State.controlRefuses_plain (h k (List.mem_range.mp hk))

/-- Neither the Command Unit nor the Report Unit takes a plain word of the Control Area. -/
theorem State.takeWrite_plain {s : State} {q : Requester} {a : Nat} {data : List Word} (hm : malformed a data.length = none)
    (hr : s.region a = .control) (h : ∀ k < data.length, PlainOffset (a + 4 * k - s.controlBase)) : s.takeWrite q a data = s := by
  obtain ⟨nonempty, aligned⟩ := aligned_of_wellFormed hm
  simp only [PlainOffset] at h
  have first := h 0 (by omega)
  have commands : s.takeCommandWords a data = s := State.takeCommandWords_above (by omega)
  have consumer : s.consumerWord a data = none := State.consumerWord_none aligned fun k hk => by have := h k hk; omega
  simp only [State.takeWrite, hr, commands, State.takeConsumerWord, consumer]

/-- A write that touches no protected extent is not refused in the PILOT window. -/
theorem State.refusal_pilot_none {s : State} {a n : Nat} (hr : s.region a = .pilot)
    (h : ∀ p ∈ s.pilots, p.state = .checking ∨ p.useCount ≠ 0 → p.extent.meets ⟨a, 4 * n⟩ = false) : s.refusal a n = none := by
  simp only [← PilotEntry.protects_iff] at h
  simp only [State.refusal, hr]
  exact if_neg (by simpa using h)

/-- Settles O14: in each of the regions nothing refuses the write, and only the Pilot Table takes words. -/
theorem plainWriteBuffered : Obligations.PlainWriteBuffered := by
  intro s f q a data i hf hh hm hi place
  rw [State.writeRow_at hf hh hi]
  refine ⟨fun unowned => ?_, fun hr words => ?_, fun hr unprotected => ?_⟩
  · obtain ⟨refusal, raw, control, pilot⟩ : f.refusal a.toNat data.length = none ∧ f.liveRaw a.toNat = none ∧
        f.region a.toNat ≠ .control ∧ f.region a.toNat ≠ .pilot := by
      obtain hr | ⟨hr, free⟩ | ⟨hr, idle⟩ := unowned
      · exact ⟨by simp [State.refusal, hr], State.liveRaw_none (.inl (by simp [hr])), by simp [hr], by simp [hr]⟩
      · exact ⟨by simp [State.refusal, hr, free], State.liveRaw_none (.inl (by simp [hr])), by simp [hr], by simp [hr]⟩
      · exact ⟨by simp [State.refusal, hr], State.liveRaw_none (.inr idle), by simp [hr], by simp [hr]⟩
    rw [State.decideWrite_buffered hm refusal raw place, State.takeWrite_untaken (by simpa) (by simpa) (by simpa)]
    rfl
  · have raw : f.liveRaw a.toNat = none := State.liveRaw_none (.inl (by simp [hr]))
    rw [State.decideWrite_buffered hm (State.refusal_plain hr words) raw place, State.takeWrite_plain hm (by simpa) (by simpa)]
    rfl
  · have raw : f.liveRaw a.toNat = none := State.liveRaw_none (.inl (by simp [hr]))
    rw [State.decideWrite_buffered hm (State.refusal_pilot_none hr unprotected) raw place, State.takeWrite_pilot (by simpa)]
    rfl

end Sys2Proof.Machine
end

section
/-! PROOFS. The Pilot Unit: the check of a pilot piece by piece (R51, R52, R54), and the commands DEFINE_PILOT and REMOVE_PILOT
(R53, R55). -/

namespace Sys2Proof.Machine

/-! ### The check (R52, R54) -/

/-- The Pilot Unit acts on the answer to its transfer. -/
theorem State.pilotAnswer_at {s m : State} {o : Outstanding} (hm : m = s.caughtUp) (ho : m.awaits .pilotUnit o) (a : DramAnswer) :
    exec (.pilotCheckReadAnswer a) s = .next (State.settle
      ((m.answeredFor .pilotUnit o a).checkAnswered (answerOk a) (m.memory.answerWords o.transfer a))) := by
  have answered : m.attemptAnswered a = (m.answeredFor .pilotUnit o a).checkAnswered _ _ := State.attemptAnswered_client ho a
  rw [← answered]
  exact State.laterEvent_at hm ho.clientDue

/-- The sum once the samples of a read have been added. -/
def PilotEntry.sumAfter (p : PilotEntry) (next : Nat) (words : List Word) (sum : Word) : Word :=
  addSamples sum (p.samplesRead next words)

section
variable {s : State} {id drain next : Nat} {started : Bool} {sum : Word}
  (h : s.commands.progress = some (.definePilot id drain started next sum))
include h

/-- A read answered FAULT ends the check. -/
theorem State.checkAnswered_fault (words : List Word) :
    s.checkAnswered false words = (s.partFault .pilotCheck id).endCheck id .faulted .memFault := by
  simp [State.checkAnswered, h]

/-- A read before the last is followed by the next. -/
theorem State.checkAnswered_more {words : List Word} (more : next < (s.pilotEntry id).words) :
    s.checkAnswered true words = s.issueCheck id next ((s.pilotEntry id).sumAfter next words sum) := by
  simp [State.checkAnswered, h, more, PilotEntry.sumAfter]

/-- The last read decides by the checksum. -/
theorem State.checkAnswered_last {words : List Word} (last : (s.pilotEntry id).words ≤ next) : s.checkAnswered true words =
    s.endCheck id (if (s.pilotEntry id).sumAfter next words sum = (s.pilotEntry id).checksum then .ready else .faulted)
      (if (s.pilotEntry id).sumAfter next words sum = (s.pilotEntry id).checksum then .ok else .checksum) := by
  unfold PilotEntry.sumAfter
  simp only [State.checkAnswered, h, Bool.true_eq_false, if_false, if_neg (Nat.not_lt.mpr last)]
  split_ifs <;> rfl

end

/-- Settles O37: the first read, and what each answer makes of the check. -/
theorem pilotCheck : Obligations.PilotCheck := by
  refine ⟨?_, ?_⟩
  · intro s m id next n sum p hm progress hp hn
    have due : m.checkStartDue = true := by simp [State.checkStartDue, progress]
    have row : exec .pilotCheckStart s = .next m.startCheck.settle := State.laterEvent_at hm due
    have first : m.startCheck = m.issueCheck id 0 0 := by simp only [State.startCheck, progress]
    have piece : pieceLength ((m.pilotEntry id).address + 4 * 0) ((m.pilotEntry id).words - 0) = n := by rw [hn, hp]; rfl
    rw [row, first, State.issueCheck, piece, Nat.zero_add, hp]
    rfl
  · intro s m x o a id drain next n started sum total p words hm ho hx progress hp hwords htotal
    have progress' : x.commands.progress = some (.definePilot id drain started next sum) := by rw [hx]; exact progress
    have entry : x.pilotEntry id = p := by rw [hp, hx]; rfl
    have sumAfter : (x.pilotEntry id).sumAfter next words sum = total := by rw [entry, htotal]; rfl
    have row := State.pilotAnswer_at hm ho a
    rw [← hx] at row
    refine ⟨?_, ?_, ?_⟩
    · rintro landed rfl
      rw [row, answerOk, State.checkAnswered_fault progress', State.endCheck]
      have kept : (x.partFault .pilotCheck id).pilotEntry id = p := entry
      rw [kept, hx]
      rfl
    · rintro rfl more hn
      have unread : next < (x.pilotEntry id).words := by rw [entry]; exact more
      rw [row, answerOk, ← hwords, State.checkAnswered_more progress' unread, sumAfter, State.issueCheck, entry, hn, hx]
      rfl
    · rintro rfl last
      have read : (x.pilotEntry id).words ≤ next := by rw [entry]; exact last
      rw [row, answerOk, ← hwords, State.checkAnswered_last progress' read, sumAfter, State.endCheck, entry, hx]
      rfl

/-! ### DEFINE_PILOT and REMOVE_PILOT (R53, R55) -/

/-- An extent that is not empty lies wholly inside the PILOT window (R59). -/
theorem PilotWindow.extent_within_iff {w : PilotWindow} {a l : Nat} (hl : 0 < l) : (pilotExtent a l).within w.range = true ↔
    w.base ≤ a ∧ a + 4 * ((l + 1) / 2) - 1 ≤ w.limit := by
  simp only [Range.within, Bool.and_eq_true, decide_eq_true_eq]
  simp only [Range.limit, pilotExtent, PilotWindow.range]
  omega

/-- A DEFINE_PILOT that fails a check ends with its status and does nothing else. -/
theorem State.defineRule_refused {s : State} {q : QueueEntry} {status : Status}
    (h : s.defineStatus (q.whole 1) (q.wide 2) (q.whole 4) = some status) : s.defineRule q = s.endCommand status := by
  simp only [State.defineRule, h]

/-- One that passes them takes the entry for its check. -/
theorem State.defineRule_taken {s : State} {q : QueueEntry} (h : s.defineStatus (q.whole 1) (q.wide 2) (q.whole 4) = none) :
    s.defineRule q = (s.setPilot (q.whole 1) { s.pilotEntry (q.whole 1) with
      state := .checking, address := q.wide 2, length := q.whole 4, checksum := q.operand 5 }).setProgress
        (.definePilot (q.whole 1) s.pwb.length false 0 0) := by
  simp only [State.defineRule, h]

/-- What is left to check once the operands are in range: that the entry is free, then that the extent lies in the window. -/
theorem State.defineStatus_formed {s : State} {id a l : Nat} (form : id ≤ 15 ∧ a % 4 = 0 ∧ 64 ≤ l ∧ l ≤ s.geometry.lMax) :
    s.defineStatus id a l = if (s.pilotEntry id).useCount ≠ 0 ∨ (s.pilotEntry id).state = .checking then some .inUse
      else match s.windows.pilot with
        | none => some .outOfWindow
        | some w => if w.base ≤ a ∧ a + 4 * ((l + 1) / 2) - 1 ≤ w.limit then none else some .outOfWindow := by
  have formed : ¬(Config.pilotCount ≤ id ∨ a % 4 ≠ 0 ∨ l < 64 ∨ s.geometry.lMax < l) := by
    have count : Config.pilotCount = 16 := rfl
    omega
  unfold State.defineStatus
  rw [if_neg formed]
  cases window : s.windows.pilot with
  | none => simp [State.pilotRange, window]
  | some w => simp [State.pilotRange, window, PilotWindow.extent_within_iff (show 0 < l by omega)]

/-- Settles O52: the first check that fails gives the status, and the commands that pass all take or empty the entry. -/
theorem pilotCommands : Obligations.PilotCommands := by
  intro s m q id a l p hm hid ha hl hp
  subst hid ha hl hp
  refine ⟨fun heads => ?_, fun heads => ?_⟩
  · have row : exec .definePilot s = .next (m.defineRule q).settle := State.command_at hm heads
    rw [row]
    refine ⟨fun unformed => ?_, fun form => ⟨fun held => ?_, fun unused unchecked => ?_⟩⟩
    · rw [State.defineRule_refused (if_pos unformed)]
    · rw [State.defineRule_refused ((State.defineStatus_formed form).trans (if_pos held))]
    · have status := (State.defineStatus_formed form).trans (if_neg (not_or.mpr ⟨not_not.mpr unused, unchecked⟩))
      refine ⟨fun outside => ?_, fun w window low high => ?_⟩
      · have refused : m.defineStatus (q.whole 1) (q.wide 2) (q.whole 4) = some .outOfWindow := by
          rw [status]
          cases window : m.windows.pilot with
          | none => rfl
          | some w =>
            have := outside w window
            exact if_neg (by omega)
        rw [State.defineRule_refused refused]
      · rw [window] at status
        rw [State.defineRule_taken (status.trans (if_pos ⟨low, high⟩))]
        rfl
  · have row : exec .removePilot s = .next (m.removeRule q).settle := State.command_at hm heads
    rw [row]
    refine ⟨fun beyond => ?_, fun within used => ?_, fun within unused => ?_⟩
    · have refused : m.removeRule q = m.endCommand .badOperand := if_pos beyond
      rw [refused]
    · have refused : m.removeRule q = m.endCommand .inUse := (if_neg (Nat.not_le.mpr (Nat.lt_succ_of_le within))).trans (if_pos used)
      rw [refused]
    · have removed : m.removeRule q = (m.setPilot (q.whole 1) { m.pilotEntry (q.whole 1) with state := .empty }).endCommand .ok :=
        (if_neg (Nat.not_le.mpr (Nat.lt_succ_of_le within))).trans (if_neg (not_not.mpr unused))
      rw [removed]
      rfl

end Sys2Proof.Machine
end

section
/-! PROOFS. The Trace Edit Unit: the verdict on a trace, the score and condition that a verdict leaves (R64 to R68), and READ_CHANNEL
(R72). -/

namespace Sys2Proof.Machine

/-! ### The verdict (R66) -/

/-- A running peak stays within a bound exactly when it began there and no magnitude passes it. -/
theorem foldl_peak_le_iff (limit : Nat) : ∀ (values : List Accumulator) (m : Nat),
    values.foldl (fun m v => max m v.toInt.natAbs) m ≤ limit ↔ m ≤ limit ∧ ∀ v ∈ values, v.toInt.natAbs ≤ limit
  | [], m => by simp
  | v :: values, m => by
    have ih := foldl_peak_le_iff limit values (max m v.toInt.natAbs)
    rw [List.foldl_cons, ih, max_le_iff, List.forall_mem_cons, and_assoc]

theorem peak_le_iff (limit : Nat) (values : List Accumulator) :
    peak values ≤ limit ↔ ∀ v ∈ values, v.toInt.natAbs ≤ limit := by
  have running := foldl_peak_le_iff limit values 0
  rwa [and_iff_right (Nat.zero_le limit)] at running

theorem verdict_accepted_iff (limit : Nat) (values : List Accumulator) :
    verdict limit values = .accepted ↔ limit = 0 ∨ ∀ v ∈ values, v.toInt.natAbs ≤ limit := by
  rw [← peak_le_iff]
  unfold verdict
  split_ifs with h <;> simp [h]

theorem Verdict.rejected_iff (v : Verdict) : v = .rejected ↔ ¬ v = .accepted := by
  cases v <;> simp

/-- Settles O34: a trace is rejected exactly when it is not accepted. -/
theorem peakVerdict : Obligations.PeakVerdict := by
  intro limit values
  have accepted := verdict_accepted_iff limit values
  refine ⟨accepted, ?_⟩
  rw [Verdict.rejected_iff, accepted, not_or, Nat.one_le_iff_ne_zero]
  simp only [not_forall, Nat.not_le, exists_prop]

/-! ### The edit test (R64, R67) -/

/-- A MUTED channel and an edit limit of 0 keep the score (R67). -/
theorem Channel.newScore_kept {x : Channel} {limit : Nat} (h : x.condition = .muted ∨ limit = 0) (v : Verdict) :
    x.newScore limit v = x.score := if_pos h

/-- Every other test moves it, within 0 and 255 (R67). -/
theorem Channel.newScore_tested {x : Channel} {limit : Nat} (heard : x.condition ≠ .muted) (limited : limit ≠ 0) (v : Verdict) :
    x.newScore limit v = match v with
      | .rejected => min 255 (x.score + 4)
      | .accepted => x.score - 1 := by
  unfold Channel.newScore
  rw [if_neg (not_or.mpr ⟨heard, limited⟩)]
  cases v with
  | rejected => exact Nat.min_comm _ _
  | accepted => rfl

theorem Condition.next_good (score : Nat) : Condition.good.next score = if score < 48 then .good else .suspect := rfl

theorem Condition.next_suspect (score : Nat) :
    Condition.suspect.next score = if score < 48 then .good else if score < 160 then .suspect else .muted := rfl

/-- An unchanged score changes nothing (R67). -/
theorem State.applyVerdict_kept {s : State} {c limit : Nat} {v : Verdict} (h : (s.channel c).newScore limit v = (s.channel c).score) :
    s.applyVerdict c limit v = s := if_pos h

/-- A new score is kept with the condition that it brings, and the change of condition is reported (R64). -/
theorem State.applyVerdict_changed {s : State} {c limit score : Nat} {v : Verdict} {before after : Condition}
    (hscore : (s.channel c).newScore limit v = score) (changed : score ≠ (s.channel c).score)
    (hbefore : (s.channel c).condition = before) (hafter : before.next score = after) :
    s.applyVerdict c limit v = (s.setChannel c ⟨score, after⟩).conditionChanged c score before after := by
  subst hscore hbefore hafter
  exact if_neg changed

/-- Settles O35: the branches of R64's table, from the score of R67. -/
theorem editTest : Obligations.EditTest := by
  obtain ⟨-, reach⟩ := channelCommands
  refine ⟨fun s c limit v h => State.applyVerdict_kept (Channel.newScore_kept h v), ?_, reach⟩
  intro s c limit score v x hx heard limited hscore
  subst hx
  replace hscore : (s.channel c).newScore limit v = score := (Channel.newScore_tested heard limited v).trans hscore.symm
  refine ⟨fun same => State.applyVerdict_kept (hscore.trans same), fun changed => ⟨?_, ?_, ?_, ?_, ?_⟩⟩
  · intro good low
    exact State.applyVerdict_changed hscore changed good (by rw [Condition.next_good, if_pos low])
  · intro good high
    exact State.applyVerdict_changed hscore changed good (by rw [Condition.next_good, if_neg (Nat.not_lt.mpr high)])
  · intro suspect low
    exact State.applyVerdict_changed hscore changed suspect (by rw [Condition.next_suspect, if_pos low])
  · intro suspect high below
    exact State.applyVerdict_changed hscore changed suspect
      (by rw [Condition.next_suspect, if_neg (Nat.not_lt.mpr high), if_pos below])
  · intro suspect top
    exact State.applyVerdict_changed hscore changed suspect
      (by rw [Condition.next_suspect, if_neg (by omega), if_neg (Nat.not_lt.mpr top)])

/-! ### READ_CHANNEL (R72) -/

theorem State.channel_eq {s : State} {c : Nat} {x : Channel} (h : s.channels[c]? = some x) : s.channel c = x := by
  rw [State.channel, List.getD_eq_getElem?_getD, h, Option.getD_some]

theorem Channel.resultWords_eq (x : Channel) : x.resultWords = [word x.score, word (match x.condition with
    | .good => 0
    | .suspect => 1
    | .muted => 2), 0, 0, 0, 0] := by
  obtain ⟨score, condition⟩ := x
  cases condition <;> rfl

/-- Settles O48: the rule ends the command with the words held, or with BAD_OPERAND. -/
theorem readChannel : Obligations.ReadChannel := by
  intro s m q x hm heads
  have row : exec .readChannel s = .next (m.readChannelRule q).settle := State.command_at hm heads
  rw [row]
  refine ⟨fun beyond => ?_, fun within hx => ?_⟩
  · have refused : m.readChannelRule q = m.endCommand .badOperand := if_pos beyond
    rw [refused]
  · have read : m.readChannelRule q = m.endCommand .ok (some (m.channel (q.whole 1)).resultWords) := if_neg (Nat.not_le.mpr within)
    rw [read, State.channel_eq hx]
    exact congrArg (fun ws => Host.Outcome.next (State.settle (m.endCommand .ok (some ws)))) x.resultWords_eq

end Sys2Proof.Machine
end

section
/-! PROOFS. How the answers OK to the Stack Unit's transfers carry a fold through a channel (R65, R85, R86). -/

namespace Sys2Proof.Machine

/-! ### The row -/

/-- An answer OK to a transfer of a stacking fold carries the fold on. -/
theorem State.stackAnswer_fold {s m x : State} {o : Outstanding} {f : FoldWork} {w : Sweep} {faulted : Bool} (hm : m = s.caughtUp)
    (ho : m.awaits .stackUnit o) (hx : x = m.answeredFor .stackUnit o .ok) (hwork : m.stackUnit.work = some ⟨.fold f, faulted⟩)
    (hw : m.sweep? f.entry = some w) :
    exec (.stackUnitTransferAnswer .ok) s =
      .next (State.settle (x.foldAnsweredOk f w faulted (m.memory.answerWords o.transfer .ok))) := by
  have work : x.stackUnit.work = some ⟨.fold f, faulted⟩ := by rw [hx]; exact hwork
  have sweep : x.sweep? f.entry = some w := by rw [hx]; exact hw
  rw [State.stackAnswer_at hm ho, ← hx]
  simp only [State.stackAnswered, work, sweep, answerOk, if_true]

/-! ### What a verdict leaves alone -/

theorem State.conditionChanged_stackUnit (s : State) (c score : Nat) (before after : Condition) :
    (s.conditionChanged c score before after).stackUnit = s.stackUnit := by
  unfold State.conditionChanged
  split <;> rfl

theorem State.applyVerdict_stackUnit (s : State) (c limit : Nat) (v : Verdict) :
    (s.applyVerdict c limit v).stackUnit = s.stackUnit := by
  unfold State.applyVerdict
  simp only
  split
  · rfl
  · exact State.conditionChanged_stackUnit _ _ _ _ _

/-- What leaves the base alone leaves the geometry and the windows. -/
theorem State.layout_of_base {s y : State} (h : y.base = s.base) : y.geometry = s.geometry ∧ y.windows = s.windows := by
  simp only [State.base, Prod.mk.injEq] at h
  obtain ⟨-, -, -, geometry, windows, -⟩ := h
  exact ⟨geometry, windows⟩

/-- The addresses of a slot's sums depend on the geometry and the STACK window alone (R75). -/
theorem State.sumsBase_of_layout {s y : State} (h : y.geometry = s.geometry ∧ y.windows = s.windows) (i : Nat) :
    y.sumsBase i = s.sumsBase i := by
  obtain ⟨geometry, windows⟩ := h
  unfold State.sumsBase State.slotRange
  rw [geometry, windows]

/-! ### The pieces of a channel (R85, R86, R137) -/

/-- The next piece of a channel's lags: those left, up to the end of the 64-byte block. -/
theorem accumulatorPiece_fold {g : Geometry} {channel lag lags : Nat} (h : lag < lags) :
    accumulatorPiece g channel lag (lags - 1) = min (lags - lag) (8 - (channel * g.kMax + lag) % 8) := by
  rw [accumulatorPiece, Nat.sub_add_cancel (Nat.one_le_of_lt h)]

/-- The read of a piece of the channel's accumulators. -/
theorem State.issueFoldRead_eq {s : State} {f : FoldWork} {faulted : Bool} {lag lags k : Nat} (h : lag < lags)
    (hk : k = min (lags - lag) (8 - (f.channel * s.geometry.kMax + lag) % 8)) : s.issueFoldRead f faulted lag lags =
      s.issueStack ⟨.fold { f with phase := .scratchRead lag k }, faulted⟩
        (.read (s.areaBase f.entry + 8 * (f.channel * s.geometry.kMax + lag)) (2 * k)) := by
  rw [hk, ← accumulatorPiece_fold h]
  rfl

/-- The read of a piece of its sums. -/
theorem State.issueSumsRead_eq {s : State} {f : FoldWork} {faulted : Bool} {lag lags base row k : Nat} (h : lag < lags)
    (hbase : s.sumsBase f.slot = base) (hrow : s.geometry.kMax = row) (hk : k = min (lags - lag) (8 - (f.channel * row + lag) % 8)) :
    s.issueSumsRead f faulted lag lags = s.issueStack ⟨.fold { f with phase := .sumsRead lag k }, faulted⟩
      (.read (base + 8 * (f.channel * row + lag)) (2 * k)) := by
  subst hbase hrow
  rw [hk, ← accumulatorPiece_fold h]
  rfl

/-! ### All accumulators read: the verdict (R65, R85) -/

/-- A rejected channel is counted, and the fold goes on with the channels after it. -/
theorem State.foldVerdict_rejected {s : State} {f : FoldWork} {w : Sweep} {faulted : Bool} {limit : Nat}
    (hlimit : (s.slotEntry f.slot).editLimit = limit) (h : verdict limit f.values = .rejected) :
    s.foldVerdict f w faulted =
      State.foldFrom w faulted f.rest { f with rejected := f.rejected + 1 } (s.applyVerdict f.channel limit .rejected) := by
  subst hlimit
  simp only [State.foldVerdict, h]
  rfl

/-- An accepted one is counted stacked, and its sums are read. -/
theorem State.foldVerdict_accepted {s : State} {f : FoldWork} {w : Sweep} {faulted : Bool} {limit : Nat}
    (hlimit : (s.slotEntry f.slot).editLimit = limit) (h : verdict limit f.values = .accepted) :
    s.foldVerdict f w faulted = State.issueSumsRead (s.applyVerdict f.channel limit .accepted)
      { f with stacked := f.stacked ++ [f.channel] } faulted 0 w.lags := by
  subst hlimit
  simp only [State.foldVerdict, h]

/-- The first read of an accepted channel's sums. -/
theorem State.foldVerdict_reads {s : State} {f : FoldWork} {w : Sweep} {faulted : Bool} {limit k : Nat}
    (hlimit : (s.slotEntry f.slot).editLimit = limit) (h : verdict limit f.values = .accepted) (lags : 0 < w.lags)
    (hk : k = min w.lags (8 - f.channel * s.geometry.kMax % 8)) :
    s.foldVerdict f w faulted = State.present
      { s.applyVerdict f.channel limit .accepted with stackUnit := { s.stackUnit with
        work := some ⟨.fold { f with stacked := f.stacked ++ [f.channel], phase := .sumsRead 0 k }, faulted⟩ } }
      .stackUnit (.read (s.sumsBase f.slot + 8 * (f.channel * s.geometry.kMax)) (2 * k)) := by
  have layout := State.layout_of_base (State.applyVerdict_base s f.channel limit .accepted)
  have base := State.sumsBase_of_layout layout f.slot
  have row := congrArg Geometry.kMax layout.1
  rw [State.foldVerdict_accepted hlimit h,
    State.issueSumsRead_eq (f := { f with stacked := f.stacked ++ [f.channel] }) lags base row hk, State.issueStack,
    State.applyVerdict_stackUnit]
  rfl

/-! ### The sums (R86) -/

/-- The list that holds the sum of each lag is that of the values added. -/
theorem addSums_eq {read values sums : List Accumulator} {lag : Nat} (hlength : sums.length = min read.length (values.length - lag))
    (h : ∀ i < sums.length, sums[i]? = some (BitVec.ofInt 64 ((read.getD i 0).toInt + (values.getD (lag + i) 0).toInt))) :
    addSums read (values.drop lag) = sums := by
  have length : (addSums read (values.drop lag)).length = sums.length := by
    rw [addSums, List.length_zipWith, List.length_drop, hlength]
  refine List.ext_getElem length fun i hi hs => ?_
  have inRead : i < read.length := by omega
  have inValues : lag + i < values.length := by omega
  have sum := h i hs
  rw [List.getD_eq_getElem _ _ inRead, List.getD_eq_getElem _ _ inValues, List.getElem?_eq_getElem hs] at sum
  rw [Option.some.inj sum]
  simp only [addSums, List.getElem_zipWith, List.getElem_drop]

/-! ### The answers -/

section
variable {s : State} {f : FoldWork} {w : Sweep} {faulted : Bool} {words : List Word} {lag n : Nat}

/-- Accumulators are left to read. -/
theorem State.foldAnsweredOk_readOn (phase : f.phase = .scratchRead lag n) (more : lag + n < w.lags) :
    s.foldAnsweredOk f w faulted words =
      s.issueFoldRead { f with values := f.values ++ wordsAccumulators words } faulted (lag + n) w.lags := by
  simp only [State.foldAnsweredOk, phase, if_pos more]

/-- All of them have been read. -/
theorem State.foldAnsweredOk_readAll (phase : f.phase = .scratchRead lag n) (last : w.lags ≤ lag + n) :
    s.foldAnsweredOk f w faulted words = s.foldVerdict { f with values := f.values ++ wordsAccumulators words } w faulted := by
  simp only [State.foldAnsweredOk, phase, if_neg (Nat.not_lt.mpr last)]

/-- A piece of the sums has been read and is written back. -/
theorem State.foldAnsweredOk_add {sums : List Accumulator} (phase : f.phase = .sumsRead lag n)
    (hsums : addSums (wordsAccumulators words) (f.values.drop lag) = sums) :
    s.foldAnsweredOk f w faulted words = s.issueStack ⟨.fold { f with phase := .sumsWrite lag n }, faulted⟩
      (.write (s.sumsBase f.slot + 8 * (f.channel * s.geometry.kMax + lag)) (accumulatorsWords sums)) := by
  subst hsums
  simp only [State.foldAnsweredOk, phase]
  rfl

/-- A piece has been written back, and sums are left. -/
theorem State.foldAnsweredOk_sumOn (phase : f.phase = .sumsWrite lag n) (more : lag + n < w.lags) :
    s.foldAnsweredOk f w faulted words = s.issueSumsRead f faulted (lag + n) w.lags := by
  simp only [State.foldAnsweredOk, phase, if_pos more]

/-- The channel has been stacked. -/
theorem State.foldAnsweredOk_sumAll (phase : f.phase = .sumsWrite lag n) (last : w.lags ≤ lag + n) :
    s.foldAnsweredOk f w faulted words = State.foldFrom w faulted f.rest f s := by
  simp only [State.foldAnsweredOk, phase, if_neg (Nat.not_lt.mpr last)]
  rfl

end

/-- Settles O31: each answer brings the fold to its next transfer, or to the channels after the one in hand. -/
theorem foldGoesOn : Obligations.FoldGoesOn := by
  intro s m x o f g w faulted words limit lag n k hm ho hx hwork hw hwords hlimit
  have answered := State.stackAnswer_fold hm ho hx hwork hw
  have slotLimit : (x.slotEntry f.slot).editLimit = limit := by rw [hlimit, hx]; rfl
  have geometry : x.geometry = m.geometry := by rw [hx]; rfl
  have base : x.sumsBase f.slot = m.sumsBase f.slot := by rw [hx]; rfl
  rw [answered, ← hwords]
  refine ⟨fun phase hg => ?_, fun phase sums hlength hsums => ?_, fun phase => ⟨fun more hk => ?_, fun last => ?_⟩⟩
  · subst g
    refine ⟨fun more hk => ?_, fun last rejected => ?_, fun last lags accepted hk => ?_⟩
    · rw [State.foldAnsweredOk_readOn phase more, State.issueFoldRead_eq more (geometry ▸ hk), hx]
      rfl
    · rw [State.foldAnsweredOk_readAll phase last,
        State.foldVerdict_rejected (f := { f with values := f.values ++ wordsAccumulators words }) slotLimit rejected]
    · rw [State.foldAnsweredOk_readAll phase last,
        State.foldVerdict_reads (f := { f with values := f.values ++ wordsAccumulators words }) slotLimit accepted lags
          (geometry ▸ hk), hx]
      rfl
  · rw [State.foldAnsweredOk_add phase (addSums_eq hlength hsums), base, geometry, hx]
    rfl
  · rw [State.foldAnsweredOk_sumOn phase more, State.issueSumsRead_eq more base (congrArg Geometry.kMax geometry) hk, hx]
    rfl
  · rw [State.foldAnsweredOk_sumAll phase last]

end Sys2Proof.Machine
end

section
/-! PROOFS. Line reset (R100, R147, R165, R173, R180): what the boundary of the event presents in the state that it leaves. -/

namespace Sys2Proof.Machine

theorem State.reportTransfer_mirror (s : State) (i : Nat) :
    s.reportTransfer (.mirror i) = .write (s.controlBase + 0x400 + 32 * i) (s.slotEntry i).mirrorWords := rfl

/-- With every mirror record stale, record 0 is the first write (R180). -/
theorem Reports.nextWrite_atReset : Reports.atReset.nextWrite =
    some (.mirror 0, { Reports.atReset with stale := false :: List.replicate 31 true }) := rfl

/-- The mirror record of a FREE slot is all zeros (12.6). -/
theorem DirEntry.mirrorWords_free : DirEntry.free.mirrorWords = [0, 0, 0, 0, 0, 0, 0, 0] := rfl

/-- The write of mirror record 0 after a line reset. -/
theorem State.reportTransfer_lineReset (b : BitVec 4) (left : Option Transfer) (mem : Memory) (q : List Instr) :
    (State.lineResetValues b left mem q).reportTransfer (.mirror 0) =
      .write (64 * 2 ^ 30 * b.toNat + 0x400) [0, 0, 0, 0, 0, 0, 0, 0] := by
  have base : (State.lineResetValues b left mem q).controlBase = 64 * 2 ^ 30 * b.toNat := rfl
  have slot : (State.lineResetValues b left mem q).slotEntry 0 = DirEntry.free := rfl
  rw [State.reportTransfer_mirror, base, slot, DirEntry.mirrorWords_free, Nat.mul_zero, Nat.add_zero]

/-- The memory port once a line reset is over and the Report Unit's client has presented its write. -/
def Port.firstWrite (left : Option Transfer) (t : Transfer) : Port :=
  { Port.atReset left with reportUnit := ⟨some ⟨t, 0, false⟩, none⟩ }

/-- The Report Unit's client presents mirror record 0 (R180). -/
theorem State.presentReport_lineReset {b : BitVec 4} {left : Option Transfer} {mem : Memory} {q : List Instr} {t : Transfer}
    (ht : (State.lineResetValues b left mem q).reportTransfer (.mirror 0) = t) :
    (State.lineResetValues b left mem q).presentReport = (Port.firstWrite left t,
      { Reports.atReset with stale := false :: List.replicate 31 true, out := some ⟨.mirror 0, false⟩ }) := by
  subst ht
  have reports : (State.lineResetValues b left mem q).reports.nextWrite = _ := Reports.nextWrite_atReset
  unfold State.presentReport
  rw [reports]
  rfl

/-- No other transfer waits, so that write goes to the DRAM, unless the DRAM has not finished with an abandoned attempt (R147). -/
theorem Port.firstWrite_arbitrate (left : Option Transfer) (t : Transfer) : (Port.firstWrite left t).arbitrate =
    { Port.atReset left with
      reportUnit := ⟨some ⟨t, 0, false⟩, none⟩
      holder := if left.isSome then .forwarding else .part
      current := if left.isSome then none else some .reportUnit
      attempt := if left.isSome then none else some .part } := by
  cases left <;> rfl

/-- Settles O4: the boundary of the event presents the first mirror write in the reset values. -/
theorem lineResetState : Obligations.LineResetState := by
  intro b s left hleft
  have values : s.lineReset b = State.lineResetValues b left s.memory s.pending := by rw [hleft]; rfl
  have first := State.presentReport_lineReset (State.reportTransfer_lineReset b left s.memory s.pending)
  have row : exec (.lineReset b) s = .next (s.lineReset b).settle := rfl
  rw [row, values, State.settle, first, ← Port.firstWrite_arbitrate]
  rfl

end Sys2Proof.Machine
end

section
/-! PROOFS. The boundary of an event (R138, R139, R146, R177): what it leaves alone, and the steps due at once that stand between it and
the other rows (R81, R153, R157). -/

namespace Sys2Proof.Machine

/-! ### What presenting and deciding leave alone -/

theorem Port.client_of_places {p q : Port} (h : p.places = q.places) (c : Client) : p.client c = q.client c := by
  simp only [Port.places, Prod.mk.injEq] at h
  obtain ⟨-, engine, stackUnit, pilotUnit, drqFetch, reportUnit, -⟩ := h
  cases c <;> assumption

theorem Port.client_setClient_self (p : Port) (c : Client) (x : ClientPort) : (p.setClient c x).client c = x := by cases c <;> rfl

theorem Port.client_setClient_other (p : Port) {c d : Client} (x : ClientPort) (h : d ≠ c) :
    (p.setClient c x).client d = p.client d := by
  cases c <;> cases d <;> first | rfl | exact absurd rfl h

/-- The slice count starts again when a side begins to wait that does not hold the port (R141). -/
theorem Port.beginsToWait_eq (p q : Port) (side : Side) : p.beginsToWait q side = { q with
    sliceCount := if p.holder = side.other ∧ p.waiting side = false then 0 else q.sliceCount } := by
  unfold Port.beginsToWait
  split_ifs <;> rfl

/-- A client with no transfer outstanding has it outstanding at once, and the part side may begin to wait (R139, R141). -/
theorem Port.present_free {p : Port} {c : Client} (t : Transfer) (h : (p.client c).out = none) :
    p.present c t = { p.setClient c ⟨some ⟨t, 0, false⟩, (p.client c).next⟩ with
      sliceCount := if p.holder = .forwarding ∧ p.waiting .part = false then 0 else p.sliceCount } := by
  have count : ∀ x, (p.setClient c x).sliceCount = p.sliceCount := fun x => by cases c <;> rfl
  simp only [Port.present, h, Port.beginsToWait_eq, count]
  rfl

/-- One with an abandoned transfer outstanding has it wait (R146). -/
theorem Port.present_behind {p : Port} {c : Client} {o : Outstanding} (t : Transfer) (h : (p.client c).out = some o) :
    p.present c t = p.setClient c ⟨some o, some t⟩ := by
  simp only [Port.present, h]

/-- A source of the forwarding side has its transfer outstanding, and that side may begin to wait (R138, R141). -/
theorem Port.presentForward_eq (p : Port) (source : ForwardSource) (t : Transfer) : p.presentForward source t = { p with
    forward := some (source, ⟨t, 0, false⟩)
    sliceCount := if p.holder = .part ∧ p.waiting .forwarding = false then 0 else p.sliceCount } := by
  rw [Port.presentForward, Port.beginsToWait_eq]
  rfl

/-- A client that presents a transfer leaves the places of the others alone. -/
theorem Port.present_other (p : Port) {c d : Client} (t : Transfer) (h : d ≠ c) : (p.present c t).client d = p.client d := by
  cases out : (p.client c).out with
  | none =>
    rw [Port.present_free t out]
    exact Port.client_setClient_other p _ h
  | some o =>
    rw [Port.present_behind t out]
    exact Port.client_setClient_other p _ h

/-- What a client that presents a transfer leaves alone beside the clients. -/
def Port.standing (p : Port) := (p.forward, p.attempt, p.abandoned)

@[simp] theorem Port.present_standing (p : Port) (c : Client) (t : Transfer) : (p.present c t).standing = p.standing := by
  have set : ∀ x, (p.setClient c x).standing = p.standing := fun x => by cases c <;> rfl
  cases out : (p.client c).out with
  | none =>
    rw [Port.present_free t out]
    exact set _
  | some o =>
    rw [Port.present_behind t out]
    exact set _

@[simp] theorem State.presentReport_standing (s : State) : s.presentReport.1.standing = s.port.standing := by
  unfold State.presentReport
  split
  · rfl
  · split
    · rfl
    · exact Port.present_standing _ _ _

@[simp] theorem State.presentFetch_standing (s : State) (p : Port) : (s.presentFetch p).standing = p.standing := by
  unfold State.presentFetch
  split
  · rfl
  · split
    · rfl
    · split
      · rfl
      · exact Port.present_standing _ .drqFetch _

/-- A delivery changes the forwarding side's transfer alone, and only when there is none. -/
theorem State.presentDelivery_keeps (s : State) (p : Port) :
    (∀ c, (s.presentDelivery p).client c = p.client c) ∧ (s.presentDelivery p).fetchFor = p.fetchFor ∧
      (s.presentDelivery p).attempt = p.attempt ∧
      (s.presentDelivery p).abandoned = p.abandoned ∧ (p.forward.isSome = true → (s.presentDelivery p).forward = p.forward) := by
  unfold State.presentDelivery
  split
  · rename_i free _
    rw [Port.presentForward_eq]
    exact ⟨fun c => by cases c <;> rfl, rfl, rfl, rfl, by simp [free]⟩
  · exact ⟨fun _ => rfl, rfl, rfl, rfl, fun _ => rfl⟩

/-- The arbiter leaves an attempt at the DRAM there, and what a line reset left. -/
theorem Port.arbitrate_attempt {p : Port} (h : p.attempt.isSome = true) : p.arbitrate = p := by
  simp [Port.arbitrate, h]

@[simp] theorem Port.issue_abandoned (p : Port) (side : Side) : (p.issue side).abandoned = p.abandoned := by
  unfold Port.issue
  repeat' split
  all_goals rfl

@[simp] theorem Port.arbitrate_abandoned (p : Port) : p.arbitrate.abandoned = p.abandoned := by
  unfold Port.arbitrate
  repeat' split
  all_goals simp

/-- A client that has a transfer outstanding keeps its place when the Report Unit's client looks for a write. -/
theorem State.presentReport_client {s : State} {c : Client} (h : c = .reportUnit → (s.port.client c).out.isSome = true) :
    s.presentReport.1.client c = s.port.client c := by
  unfold State.presentReport
  split
  · rfl
  · rename_i free
    split
    · rfl
    · exact Port.present_other _ _ fun hc => free (by subst hc; exact h rfl)

/-- The same when the DRQ fetch looks for a read. -/
theorem State.presentFetch_client {s : State} {p : Port} {c : Client} (h : c = .drqFetch → (p.client c).out.isSome = true) :
    (s.presentFetch p).client c = p.client c := by
  unfold State.presentFetch
  split
  · rfl
  · rename_i free
    split
    · rfl
    · split
      · rfl
      · rename_i e _
        have other := Port.present_other p (.read e.address e.length) fun hc : c = .drqFetch => free (by subst hc; exact h rfl)
        cases c <;> exact other

/-! ### The boundary of an event -/

/-- The memory port when the clients have presented their transfers, before the arbiter decides. -/
def State.presented (s : State) : Port := s.presentDelivery (s.presentFetch s.presentReport.1)

theorem State.settle_port_eq (s : State) : s.settle.port = s.presented.arbitrate := rfl

theorem State.settle_client (s : State) (c : Client) : s.settle.port.client c = (s.presentFetch s.presentReport.1).client c :=
  (Port.client_of_places (Port.arbitrate_places s.presented) c).trans ((State.presentDelivery_keeps _ _).1 c)

/-- A client keeps a transfer that it has outstanding. -/
theorem State.settle_client_kept {s : State} {c : Client} (h : (s.port.client c).out.isSome = true) :
    s.settle.port.client c = s.port.client c := by
  have report : s.presentReport.1.client c = s.port.client c := State.presentReport_client fun _ => h
  rw [State.settle_client, State.presentFetch_client fun _ => report ▸ h, report]

theorem State.presented_standing (s : State) : (s.presentFetch s.presentReport.1).standing = s.port.standing := by simp

/-- The forwarding side keeps its transfer. -/
theorem State.settle_forward_kept {s : State} {x : ForwardSource × Outstanding} (h : s.port.forward = some x) :
    s.settle.port.forward = some x := by
  obtain ⟨-, -, -, -, keeps⟩ := State.presentDelivery_keeps s (s.presentFetch s.presentReport.1)
  have forward : (s.presentFetch s.presentReport.1).forward = some x := (congrArg (·.1) s.presented_standing).trans h
  have decided : s.settle.port.forward = s.presented.forward := congrArg (·.1) (Port.arbitrate_places s.presented)
  rw [decided, State.presented, keeps (by rw [forward]; rfl), forward]

/-- So does an attempt that a line reset left. -/
theorem State.settle_abandoned (s : State) : s.settle.port.abandoned = s.port.abandoned := by
  obtain ⟨-, -, -, keeps, -⟩ := State.presentDelivery_keeps s (s.presentFetch s.presentReport.1)
  rw [State.settle_port_eq, Port.arbitrate_abandoned, State.presented, keeps]
  exact congrArg (·.2.2) s.presented_standing

/-- An attempt at the DRAM stays there. -/
theorem State.settle_attempt_kept {s : State} {side : Side} (h : s.port.attempt = some side) : s.settle.port.attempt = some side := by
  obtain ⟨-, -, keeps, -⟩ := State.presentDelivery_keeps s (s.presentFetch s.presentReport.1)
  have attempt : s.presented.attempt = some side := (keeps.trans (congrArg (·.2.1) s.presented_standing)).trans h
  rw [State.settle_port_eq, Port.arbitrate_attempt (by rw [attempt]; rfl), attempt]

/-- The Report Unit stays as it is while its client has a write outstanding. -/
theorem State.settle_reports_kept {s : State} (h : s.port.reportUnit.out.isSome = true) : s.settle.reports = s.reports := by
  rw [State.settle_reports, State.presentReport, if_pos h]

/-- A Report Unit from the fields that presenting a write leaves alone, and the others. -/
theorem Reports.eq_of_ring {r q : Reports} (h : q.ring = r.ring) : q = { r with
    handOrder := q.handOrder, stale := q.stale, out := q.out, producerDue := q.producerDue } := by
  obtain ⟨size, enable, producer, consumer, pendingKinds, handOrder, out, due, ok, stale⟩ := q
  simp only [Reports.ring, Prod.mk.injEq] at h
  obtain ⟨rfl, rfl, rfl, rfl, rfl, rfl, -⟩ := h
  rfl

/-- Choosing the next write makes no producer write due. -/
theorem Reports.nextWrite_producerDue {r q : Reports} {w : ReportWrite} (h : r.nextWrite = some (w, q)) (due : q.producerDue = true) :
    r.producerDue = true := by
  unfold Reports.nextWrite at h
  simp only at h
  split at h
  · assumption
  · split at h
    · split at h <;> (cases h; exact due)
    · cases h
      exact due
    · cases h
      exact due
    · obtain ⟨i, -, hi⟩ := Option.map_eq_some_iff.mp h
      cases hi
      exact due

theorem State.settle_producerDue {s : State} (h : s.settle.reports.producerDue = true) : s.reports.producerDue = true := by
  rw [State.settle_reports, State.presentReport] at h
  split at h
  · exact h
  · split at h
    · exact h
    · rename_i next
      exact Reports.nextWrite_producerDue next h

/-! ### The rows that are due at once -/

/-- The rows that are due at once: the beginnings of commands, the claim and the window change. -/
theorem Instr.atOnce_cases {i : Instr} (h : i.atOnce = true) :
    i = .badKindCommand ∨ i = .slotClaim ∨ i = .windowChange ∨ ∃ k : CommandKind, i = k.row := by
  cases i
  case badKindCommand => exact .inl rfl
  case slotClaim => exact .inr (.inl rfl)
  case windowChange => exact .inr (.inr (.inl rfl))
  case setGeometry => exact .inr (.inr (.inr ⟨.setGeometry, rfl⟩))
  case setWindow => exact .inr (.inr (.inr ⟨.setWindow, rfl⟩))
  case setTimers => exact .inr (.inr (.inr ⟨.setTimers, rfl⟩))
  case readState => exact .inr (.inr (.inr ⟨.readState, rfl⟩))
  case engineReset => exact .inr (.inr (.inr ⟨.engineReset, rfl⟩))
  case noticeSweep => exact .inr (.inr (.inr ⟨.noticeSweep, rfl⟩))
  case cancelSweep => exact .inr (.inr (.inr ⟨.cancelSweep, rfl⟩))
  case readSweep => exact .inr (.inr (.inr ⟨.readSweep, rfl⟩))
  case definePilot => exact .inr (.inr (.inr ⟨.definePilot, rfl⟩))
  case removePilot => exact .inr (.inr (.inr ⟨.removePilot, rfl⟩))
  case muteChannel => exact .inr (.inr (.inr ⟨.muteChannel, rfl⟩))
  case unmuteChannel => exact .inr (.inr (.inr ⟨.unmuteChannel, rfl⟩))
  case readChannel => exact .inr (.inr (.inr ⟨.readChannel, rfl⟩))
  case openSourcePoint => exact .inr (.inr (.inr ⟨.openSourcePoint, rfl⟩))
  case closeSourcePoint => exact .inr (.inr (.inr ⟨.closeSourcePoint, rfl⟩))
  case releaseStack => exact .inr (.inr (.inr ⟨.releaseStack, rfl⟩))
  case setArbiter => exact .inr (.inr (.inr ⟨.setArbiter, rfl⟩))
  case setMode => exact .inr (.inr (.inr ⟨.setMode, rfl⟩))
  case setReports => exact .inr (.inr (.inr ⟨.setReports, rfl⟩))
  all_goals cases h

theorem CommandKind.row_atOnce (k : CommandKind) : k.row.atOnce = true := by cases k <;> rfl

theorem CommandKind.row_due (k : CommandKind) (s : State) : k.row.due s = s.commandDue k := by cases k <;> rfl

theorem CommandKind.exec_row (k : CommandKind) (s : State) : exec k.row s = State.command k k.rule s := by cases k <;> rfl

/-- The head command of a kind is due: none is in progress, and it stands at the head of the queue. -/
theorem State.commandDue_iff (s : State) (k : CommandKind) : s.commandDue k = true ↔
    s.commands.progress = none ∧ ∃ q, s.commands.queue.head? = some q ∧ q.command = some k := by
  simp [State.commandDue, Option.any_eq_true]

theorem State.badKindDue_iff (s : State) : s.badKindDue = true ↔
    s.commands.progress = none ∧ ∃ q, s.commands.queue.head? = some q ∧ q.command = none := by
  simp [State.badKindDue, Option.any_eq_true]

/-- With no command in progress the step that is due at once is the beginning of the head command. -/
theorem State.atOnce_begins {s : State} (h : s.commands.progress = none) : s.atOnce = s.beginHead := by
  simp [State.atOnce, h]

theorem State.beginHead_kind {s : State} {k : CommandKind} {q : QueueEntry} (head : s.commands.queue.head? = some q)
    (kind : q.command = some k) : s.beginHead = s.beginCommand k k.rule := by
  obtain ⟨rest, queue⟩ := List.head?_eq_some_iff.mp head
  simp only [State.beginHead, queue, kind]

theorem State.beginHead_badKind {s : State} {q : QueueEntry} (head : s.commands.queue.head? = some q) (kind : q.command = none) :
    s.beginHead = s.endCommand .badKind := by
  obtain ⟨rest, queue⟩ := List.head?_eq_some_iff.mp head
  simp only [State.beginHead, queue, kind]

/-- A claim or a window change belongs to a command in progress. -/
theorem State.slotClaimDue_progress {s : State} (h : s.slotClaimDue = true) : ∃ i, s.commands.progress = some (.openSourcePoint i) := by
  unfold State.slotClaimDue at h
  split at h
  · exact ⟨_, ‹_›⟩
  · cases h

theorem State.windowChangeDue_progress {s : State} (h : s.windowChangeDue = true) : ∃ w, s.commands.progress = some (.setWindow w) := by
  unfold State.windowChangeDue at h
  split at h
  · exact ⟨_, ‹_›⟩
  · cases h

theorem State.atOnce_claims {s : State} (h : s.slotClaimDue = true) : s.atOnce = s.makeSlotClaim := by
  obtain ⟨i, progress⟩ := State.slotClaimDue_progress h
  simp [State.atOnce, progress, h]

theorem State.atOnce_changes {s : State} (h : s.windowChangeDue = true) : s.atOnce = s.makeWindowChange := by
  obtain ⟨w, progress⟩ := State.windowChangeDue_progress h
  simp [State.atOnce, State.slotClaimDue, progress]

/-- The row of a step that is due at once makes that step. -/
theorem exec_atOnce {i : Instr} {s : State} (h : i.atOnce = true) (due : i.due s.settle = true) :
    exec i s = .next s.settle.atOnce.settle := by
  obtain rfl | rfl | rfl | ⟨k, rfl⟩ := Instr.atOnce_cases h
  · obtain ⟨progress, q, head, kind⟩ := s.settle.badKindDue_iff.mp due
    rw [State.atOnce_begins progress, State.beginHead_badKind head kind]
    exact State.event_due (effect := fun s => s.endCommand .badKind) due
  · rw [State.atOnce_claims due]
    exact State.event_due due
  · rw [State.atOnce_changes due]
    exact State.event_due due
  · rw [CommandKind.row_due] at due
    obtain ⟨progress, q, head, kind⟩ := (s.settle.commandDue_iff k).mp due
    rw [CommandKind.exec_row, State.atOnce_begins progress, State.beginHead_kind head kind]
    exact State.event_due due

/-- With a command in the queue, a step is due at once exactly when its row is. -/
theorem State.overdue_iff {s : State} (hq : s.commands.queue ≠ []) :
    s.overdue = true ↔ ∃ i : Instr, i.atOnce = true ∧ i.due s = true := by
  obtain ⟨q, rest, queue⟩ := List.exists_cons_of_ne_nil hq
  have head : s.commands.queue.head? = some q := by rw [queue]; rfl
  have overdue : s.overdue = true ↔ s.commands.progress = none ∨ s.slotClaimDue = true ∨ s.windowChangeDue = true := by
    simp [State.overdue, queue, or_assoc]
  rw [overdue]
  constructor
  · rintro (progress | claim | change)
    · cases kind : q.command with
      | none => exact ⟨.badKindCommand, rfl, s.badKindDue_iff.mpr ⟨progress, q, head, kind⟩⟩
      | some k => exact ⟨k.row, k.row_atOnce, (k.row_due s).trans ((s.commandDue_iff k).mpr ⟨progress, q, head, kind⟩)⟩
    · exact ⟨.slotClaim, rfl, claim⟩
    · exact ⟨.windowChange, rfl, change⟩
  · rintro ⟨i, atOnce, due⟩
    obtain rfl | rfl | rfl | ⟨k, rfl⟩ := Instr.atOnce_cases atOnce
    · exact .inl (s.badKindDue_iff.mp due).1
    · exact .inr (.inl due)
    · exact .inr (.inr due)
    · exact .inl ((s.commandDue_iff k).mp ((k.row_due s).symm.trans due)).1

/-- Settles O5: the boundary keeps what is outstanding, and the rows due at once make the steps between it and the other rows. -/
theorem settleFrame : Obligations.SettleFrame := by
  refine ⟨fun s => ?_, fun s => ⟨s.caughtUp_done, State.caughtUp_quiet⟩, ?_, fun s hq => State.overdue_iff hq⟩
  · have slices := s.settle_slices
    exact ⟨rfl, fun _ => State.settle_client_kept, fun _ => State.settle_forward_kept, s.settle_abandoned,
      congrArg Prod.fst slices, congrArg Prod.snd slices, fun _ => State.settle_attempt_kept, State.settle_reports_kept,
      Reports.eq_of_ring s.presentReport_ring, State.settle_producerDue⟩
  · intro s t i overdue atOnce due ht
    have made := exec_atOnce atOnce due
    rw [ht] at made
    obtain rfl := Host.Outcome.next.inj made
    exact State.caughtUp_atOnce overdue

end Sys2Proof.Machine
end

section
/-! PROOFS. What the clients that choose their own next transfer present at the boundary of an event, and the words it carries (R96, R108,
R128, R138, R139, R177, R178). -/

namespace Sys2Proof.Machine

/-! ### The delivery and the fetch (R108, R128) -/

theorem Port.present_idle {p : Port} {c : Client} (t : Transfer) (h : p.client c = ⟨none, none⟩) :
    p.present c t = { p.setClient c ⟨some ⟨t, 0, false⟩, none⟩ with
      sliceCount := if p.holder = .forwarding ∧ p.waiting .part = false then 0 else p.sliceCount } := by
  rw [Port.present_free t (congrArg (·.out) h), h]

/-- The client's place once it has presented a transfer. -/
theorem Port.present_client {p : Port} {c : Client} (t : Transfer) (h : p.client c = ⟨none, none⟩) :
    (p.present c t).client c = ⟨some ⟨t, 0, false⟩, none⟩ := by
  rw [Port.present_idle t h]
  exact Port.client_setClient_self p c _

/-- With nothing outstanding on the forwarding side the Posted Write Buffer presents its first write. -/
theorem State.settle_delivery {s : State} {w : PwbEntry} {rest : List PwbEntry} (free : s.port.forward = none) (pwb : s.pwb = w :: rest) :
    s.settle.port.forward = some (.delivery, ⟨.write w.address w.data, 0, false⟩) := by
  have forward : (s.presentFetch s.presentReport.1).forward = none := (congrArg (·.1) s.presented_standing).trans free
  have decided : s.settle.port.forward = s.presented.forward := congrArg (·.1) (Port.arbitrate_places s.presented)
  rw [decided, State.presented, State.presentDelivery]
  simp only [forward, pwb, Port.presentForward_eq]

/-- The DRQ fetch presents the read of the first entry of the fetch order. -/
theorem State.presentFetch_first {s : State} {p : Port} {i : Nat} {e : DrqEntry} {rest : List Nat} (free : p.drqFetch = ⟨none, none⟩)
    (order : s.drq.fetchOrder = i :: rest) (entry : s.drq.entries[i]? = some (some e)) :
    s.presentFetch p = { p.present .drqFetch (.read e.address e.length) with fetchFor := some i } := by
  simp [State.presentFetch, free, order, entry]

theorem State.settle_fetch {s : State} {i : Nat} {e : DrqEntry} {rest : List Nat} (free : s.port.drqFetch = ⟨none, none⟩)
    (order : s.drq.fetchOrder = i :: rest) (entry : s.drq.entries[i]? = some (some e)) :
    s.settle.port.drqFetch = ⟨some ⟨.read e.address e.length, 0, false⟩, none⟩ ∧ s.settle.port.fetchFor = some i := by
  obtain ⟨-, fetchFor, -⟩ := State.presentDelivery_keeps s (s.presentFetch s.presentReport.1)
  have idle : s.presentReport.1.client .drqFetch = ⟨none, none⟩ := (State.presentReport_client (c := .drqFetch) nofun).trans free
  have first := State.presentFetch_first idle order entry
  have decided : s.settle.port.fetchFor = s.presented.fetchFor := congrArg (·.2.2.2.2.2.2) (Port.arbitrate_places s.presented)
  constructor
  · have client := s.settle_client .drqFetch
    rw [first] at client
    exact client.trans (Port.present_client _ idle)
  · rw [decided, State.presented, fetchFor, first]

/-! ### The Report Unit's client (R177) -/

/-- The Report Unit once its client has a write outstanding. -/
def Reports.presents (r : Reports) (w : ReportWrite) : Reports := { r with
  out := some ⟨w, false⟩
  producerDue := false
  handOrder := match w with
    | .record _ _ => r.handOrder.tail
    | .producer reset => if reset = true then r.handOrder.tail else r.handOrder
    | .slotWrite _ => r.handOrder.tail
    | .mirror _ => r.handOrder
  stale := match w with
    | .mirror i => r.stale.set i false
    | _ => r.stale }

/-- The next write is `w`, and choosing it takes it out of what is due. -/
def Reports.chooses (r : Reports) (w : ReportWrite) : Prop :=
  ∃ q, r.nextWrite = some (w, q) ∧ { q with out := some ⟨w, false⟩ } = r.presents w

theorem Reports.lowestStale_none {r : Reports} (h : true ∉ r.stale) : r.lowestStale = none :=
  List.findIdx?_eq_none_iff.mpr fun x hx => by
    cases x with
    | true => exact absurd hx h
    | false => rfl

theorem Reports.lowestStale_some {r : Reports} {i : Nat} (stale : r.stale[i]? = some true) (h : ∀ j < i, r.stale[j]? = some false) :
    r.lowestStale = some i := by
  obtain ⟨hi, stale⟩ := List.getElem?_eq_some_iff.mp stale
  refine List.findIdx?_eq_some_iff_getElem.mpr ⟨hi, stale, fun j hj => ?_⟩
  obtain ⟨_, fresh⟩ := List.getElem?_eq_some_iff.mp (h j hj)
  simp [fresh]

section
variable {r : Reports}

/-- A producer write that is due comes first. -/
theorem Reports.chooses_producer (due : r.producerDue = true) : r.chooses (.producer false) :=
  ⟨_, if_pos due, rfl⟩

variable (due : r.producerDue = false)
include due

/-- The head of the hand order is a record, and no mirror mark is stale. -/
theorem Reports.chooses_record {x : Record} {rest : List Handed} (head : r.handOrder = .record x :: rest) (fresh : true ∉ r.stale) :
    r.chooses (.record x r.producer) :=
  ⟨{ r with handOrder := rest }, by simp [Reports.nextWrite, due, head, Reports.lowestStale_none fresh],
    by simp [Reports.presents, due, head]⟩

/-- It is the producer write of a SET_REPORTS. -/
theorem Reports.chooses_producerReset {rest : List Handed} (head : r.handOrder = .producerReset :: rest) :
    r.chooses (.producer true) :=
  ⟨{ r with handOrder := rest }, by simp [Reports.nextWrite, due, head], by simp [Reports.presents, due, head]⟩

/-- It is a write into a command slot. -/
theorem Reports.chooses_slotWrite {x : SlotWrite} {rest : List Handed} (head : r.handOrder = .slotWrite x :: rest) :
    r.chooses (.slotWrite x) :=
  ⟨{ r with handOrder := rest }, by simp [Reports.nextWrite, due, head], by simp [Reports.presents, due, head]⟩

/-- It is a record, or the hand order is empty, and a mirror mark is stale. -/
theorem Reports.chooses_mirror {i : Nat} (head : r.handOrder = [] ∨ ∃ x rest, r.handOrder = .record x :: rest)
    (lowest : r.lowestStale = some i) : r.chooses (.mirror i) := by
  refine ⟨{ r with stale := r.stale.set i false }, ?_, by simp [Reports.presents, due]⟩
  obtain head | ⟨x, rest, head⟩ := head
  · simp [Reports.nextWrite, due, head, lowest]
  · simp [Reports.nextWrite, due, head, lowest]

end

/-- The client presents the write that the Report Unit chooses. -/
theorem State.settle_report {s : State} {w : ReportWrite} (free : s.port.reportUnit = ⟨none, none⟩) (h : s.reports.chooses w) :
    s.settle.port.reportUnit = ⟨some ⟨s.reportTransfer w, 0, false⟩, none⟩ ∧ s.settle.reports = s.reports.presents w := by
  obtain ⟨q, next, presents⟩ := h
  have reported : s.presentReport = (s.port.present .reportUnit (s.reportTransfer w), s.reports.presents w) := by
    simp [State.presentReport, free, next, presents]
  constructor
  · have client := s.settle_client .reportUnit
    rw [State.presentFetch_client (c := .reportUnit) nofun, reported] at client
    exact client.trans (Port.present_client _ free)
  · rw [State.settle_reports, reported]

theorem State.reportTransfer_record (s : State) (x : Record) (place : Nat) :
    s.reportTransfer (.record x place) = .write (s.controlBase + 0x8000 + 32 * place) x.words := rfl

theorem State.reportTransfer_producer (s : State) (reset : Bool) : s.reportTransfer (.producer reset) =
    .write (s.controlBase + 0x100) [if reset then 0 else word s.reports.producer] := by
  cases reset <;> rfl

theorem State.reportTransfer_slotWrite (s : State) (x : SlotWrite) : s.reportTransfer (.slotWrite x) =
    .write (s.controlBase + 32 * x.slot + (if x.role = .results then 4 else 28)) x.words := by
  obtain ⟨slot, role, words⟩ := x
  cases role <;> rfl

/-! ### The words (12.5, 12.6) -/

theorem flag_mul (n : Nat) (b : Bool) : n * flag b = if b = true then n else 0 := by
  cases b <;> simp [flag]

theorem Record.words_eq (r : Record) : r.words =
    [word (r.kind.code + (if r.coalesced = true then 2 ^ 8 else 0) + (match r.requester with
        | none => 0
        | some q => 2 ^ 9 + 2 ^ 16 * q.toNat)),
      word r.subject, word (r.subject / 2 ^ 32), word r.detail] ++
    (match r.newest with
      | none => [0, 0x80000000]
      | some n => [word n, word (n / 2 ^ 32)]) ++ [0, 0] := by
  rw [← flag_mul]
  obtain ⟨kind, coalesced, subject, requester, detail, newest⟩ := r
  cases newest <;> rfl

theorem DirEntry.mirrorWords_eq (d : DirEntry) : d.mirrorWords =
    [word (d.state.code + (if d.damaged = true then 2 ^ 8 else 0) + (if d.headerFault = true then 2 ^ 9 else 0)),
      word d.sourcePoint, word (d.foldTarget + 2 ^ 8 * d.notices + 2 ^ 16 * d.contributors.length), word d.lags,
      word (d.first + 2 ^ 16 * d.last), word (d.gapFirst + 2 ^ 16 * d.gapLast), word d.editLimit, word (d.editLimit / 2 ^ 32)] := by
  rw [← flag_mul, ← flag_mul]
  rfl

/-- Settles O22: each source or client with nothing outstanding presents what it chooses, and the words of what it writes. -/
theorem transfersPresented : Obligations.TransfersPresented := by
  refine ⟨fun _ _ => Port.present_idle, Port.presentForward_eq, fun _ _ _ => State.settle_delivery,
    fun _ _ _ _ => State.settle_fetch, ?_, Record.words_eq, rfl, DirEntry.mirrorWords_eq, rfl⟩
  intro s w t free chosen
  have choice : s.reports.chooses w ∧ s.reportTransfer w = t := by
    obtain ⟨due, rfl, rfl⟩ | ⟨due, ⟨x, rest, head, fresh, rfl, rfl⟩ | ⟨rest, head, rfl, rfl⟩ | ⟨x, rest, head, rfl, rfl⟩ |
      ⟨i, head, stale, fresh, rfl, rfl⟩⟩ := chosen
    · exact ⟨Reports.chooses_producer due, s.reportTransfer_producer false⟩
    · exact ⟨Reports.chooses_record due head fresh, s.reportTransfer_record x _⟩
    · exact ⟨Reports.chooses_producerReset due head, s.reportTransfer_producer true⟩
    · exact ⟨Reports.chooses_slotWrite due head, s.reportTransfer_slotWrite x⟩
    · exact ⟨Reports.chooses_mirror due head (Reports.lowestStale_some stale fresh), s.reportTransfer_mirror i⟩
  obtain ⟨chooses, rfl⟩ := choice
  exact State.settle_report free chooses

end Sys2Proof.Machine
end

section
/-! PROOFS. The Stack Directory's commands: OPEN_SOURCE_POINT with its claim (R80, R81), CLOSE_SOURCE_POINT (R91, R92) and RELEASE_STACK
(R98). -/

namespace Sys2Proof.Machine

/-! ### Looking up the directory and the buffer -/

theorem State.bufferClear_iff (s : State) (r : Range) : s.bufferClear r = true ↔ ∀ x ∈ s.pwb, x.range.meets r = false := by
  simp [State.bufferClear]

theorem State.bufferClear_false {s : State} {r : Range} (h : ∃ x ∈ s.pwb, x.range.meets r = true) : s.bufferClear r = false := by
  obtain ⟨x, hx, meets⟩ := h
  rw [Bool.eq_false_iff, Ne, State.bufferClear_iff]
  exact fun clear => Bool.eq_false_iff.mp (clear x hx) meets

theorem State.findSourcePoint_none {s : State} {sp : Nat} (h : ∀ x ∈ s.directory, x.state ≠ .free → x.sourcePoint ≠ sp) :
    s.findSourcePoint sp = none :=
  List.findIdx?_eq_none_iff.mpr fun x hx => by simpa using h x hx

theorem State.findSourcePoint_isSome {s : State} {sp : Nat} (h : ∃ x ∈ s.directory, x.state ≠ .free ∧ x.sourcePoint = sp) :
    (s.findSourcePoint sp).isSome = true := by
  simpa [State.findSourcePoint] using h

/-- No slot is FREE (R80). -/
theorem State.freeSlot_none {s : State} {w : StackWindow}
    (h : s.windows.stack = none ∨ s.windows.stack = some w ∧ ∀ x ∈ s.directory.take w.slots, x.state ≠ .free) : s.freeSlot = none := by
  unfold State.freeSlot
  obtain off | ⟨window, used⟩ := h
  · rw [off]
  · rw [window]
    exact List.findIdx?_eq_none_iff.mpr fun x hx => by simpa using used x hx

theorem State.slotEntry_eq_getElem {s : State} {i : Nat} (h : i < s.directory.length) : s.slotEntry i = s.directory[i] :=
  List.getD_eq_getElem _ _ h

/-- The lowest FREE slot among those of the window (R80). -/
theorem State.freeSlot_some {s : State} {w : StackWindow} {i : Nat} (window : s.windows.stack = some w) (hw : i < w.slots)
    (hi : i < s.directory.length) (free : (s.slotEntry i).state = .free) (h : ∀ j < i, (s.slotEntry j).state ≠ .free) :
    s.freeSlot = some i := by
  unfold State.freeSlot
  rw [window]
  refine List.findIdx?_eq_some_iff_getElem.mpr ⟨by simp [hw, hi], ?_, fun j hj => ?_⟩
  · rw [State.slotEntry_eq_getElem hi] at free
    simp [free]
  · have used := h j hj
    rw [State.slotEntry_eq_getElem (Nat.lt_trans hj hi)] at used
    simpa using used

/-! ### OPEN_SOURCE_POINT (R80, R81) -/

theorem OpenOperands.inRange_iff (o : OpenOperands) (g : Geometry) : o.inRange g = true ↔
    1 ≤ o.sourcePoint ∧ 1 ≤ o.foldTarget ∧ o.foldTarget ≤ 32 ∧ 1 ≤ o.lags ∧ o.lags ≤ g.kMax ∧
      o.first < g.c ∧ o.last < g.c ∧ o.gapFirst < g.c ∧ o.gapLast < g.c := by
  simp only [OpenOperands.inRange, Bool.and_eq_true, bne_iff_ne, decide_eq_true_eq, and_assoc, ← Nat.one_le_iff_ne_zero]
  rfl

theorem OpenOperands.inRange_false {o : OpenOperands} {g : Geometry} (h : o.sourcePoint = 0 ∨ o.foldTarget < 1 ∨ 32 < o.foldTarget ∨
    o.lags < 1 ∨ g.kMax < o.lags ∨ g.c ≤ o.first ∨ g.c ≤ o.last ∨ g.c ≤ o.gapFirst ∨ g.c ≤ o.gapLast) : o.inRange g = false := by
  rw [Bool.eq_false_iff, Ne, OpenOperands.inRange_iff]
  omega

section
variable {s : State} {q : QueueEntry}

theorem State.openRule_badOperand (h : q.openOperands.inRange s.geometry = false) : s.openRule q = s.endCommand .badOperand := if_pos h

variable (range : q.openOperands.inRange s.geometry = true)
include range

theorem State.openRule_duplicate (found : (s.findSourcePoint q.openOperands.sourcePoint).isSome = true) :
    s.openRule q = s.endCommand .duplicate := by
  simp [State.openRule, range, found]

variable (unheld : s.findSourcePoint q.openOperands.sourcePoint = none)
include unheld

theorem State.openRule_noRoom (full : s.freeSlot = none) : s.openRule q = s.endCommand .noRoom := by
  simp [State.openRule, range, unheld, full]

variable {i : Nat} (free : s.freeSlot = some i)
include free

theorem State.openRule_claims (clear : s.bufferClear (s.slotRange i) = true) : s.openRule q = s.claimSlot q.openOperands i := by
  simp [State.openRule, range, unheld, free, clear]

theorem State.openRule_waits (written : s.bufferClear (s.slotRange i) = false) : s.openRule q = s.setProgress (.openSourcePoint i) := by
  simp [State.openRule, range, unheld, free, written]

end

/-- Settles O54: the checks in the order of the rule, and the claim in either row. -/
theorem sourcePointOpened : Obligations.SourcePointOpened := by
  intro s m q o i d w hm ho hd
  subst ho hd
  refine ⟨fun heads => ?_, fun rest progress queue clear => ?_⟩
  · have row : exec .openSourcePoint s = .next (m.openRule q).settle := State.command_at hm heads
    rw [row]
    refine ⟨fun refused => by rw [State.openRule_badOperand (OpenOperands.inRange_false refused)], fun formed => ?_⟩
    have range := (OpenOperands.inRange_iff _ _).mpr formed
    refine ⟨fun held => by rw [State.openRule_duplicate range (State.findSourcePoint_isSome held)], fun unheld => ?_⟩
    replace unheld := State.findSourcePoint_none unheld
    refine ⟨fun full => by rw [State.openRule_noRoom range unheld (State.freeSlot_none full)], fun window hw hi free used => ?_⟩
    replace free := State.freeSlot_some window hw hi free used
    refine ⟨fun clear => ?_, fun written => ?_⟩
    · rw [State.openRule_claims range unheld free ((m.bufferClear_iff _).mpr clear)]
      rfl
    · rw [State.openRule_waits range unheld free (State.bufferClear_false written)]
      rfl
  · have due : m.slotClaimDue = true := by
      simp only [State.slotClaimDue, progress]
      exact (m.bufferClear_iff _).mpr clear
    have claimed : m.makeSlotClaim = m.claimSlot q.openOperands i := by simp only [State.makeSlotClaim, progress, queue]
    have row : exec .slotClaim s = .next m.makeSlotClaim.settle := State.event_at hm due
    rw [row, claimed]
    rfl

/-! ### CLOSE_SOURCE_POINT and RELEASE_STACK (R92, R98) -/

/-- Settles O55: what both commands do with the slot that holds the source point, by its state. -/
theorem sourcePointClosedAndReleased : Obligations.SourcePointClosedAndReleased := by
  intro s m q i d hm
  have close : m.heads .closeSourcePoint q → exec .closeSourcePoint s = .next (m.closeRule q).settle := State.command_at hm
  have release : m.heads .releaseStack q → exec .releaseStack s = .next (m.releaseRule q).settle := State.command_at hm
  refine ⟨fun k hk heads unheld => ?_, fun found hd => ⟨fun heads => ?_, fun heads => ?_⟩⟩
  · replace unheld := State.findSourcePoint_none unheld
    obtain rfl | rfl := hk
    · refine (close heads).trans ?_
      rw [State.closeRule, unheld]
    · refine (release heads).trans ?_
      rw [State.releaseRule, unheld]
  · rw [close heads, State.closeRule, found, hd]
    exact ⟨fun other => by simp only [if_neg other], fun opened => by simp only [if_pos opened]; rfl⟩
  · rw [release heads, State.releaseRule, found, hd]
    exact ⟨fun other => by simp only [if_neg other], fun sealed => by simp only [if_pos sealed]; rfl⟩

end Sys2Proof.Machine
end

section
/-! PROOFS. How a FOLD begins and ends (R84 to R91): the sweep of another outcome than STACKED, the channels that a stacking fold passes
over, the completion test, and the end of a drain (R170, R171). -/

namespace Sys2Proof.Machine

/-! ### The completion test (R91) -/

theorem State.completeTest_completes {s : State} {i : Nat} (h : (s.slotEntry i).state = .opened ∧
    (s.slotEntry i).contributors.length = (s.slotEntry i).foldTarget) :
    s.completeTest i = (s.setSlot i { s.slotEntry i with state := .complete }).appendStackItem (.seal i) := if_pos h

theorem State.completeTest_refuses {s : State} {i : Nat} (h : (s.slotEntry i).state ≠ .opened ∨
    (s.slotEntry i).contributors.length ≠ (s.slotEntry i).foldTarget) : s.completeTest i = s :=
  if_neg fun both => h.elim (· both.1) (· both.2)

/-- The completion test begins and ends no item. -/
theorem State.completeTest_work (s : State) (i : Nat) : (s.completeTest i).stackUnit.work = s.stackUnit.work := by
  unfold State.completeTest
  simp only
  split <;> rfl

theorem State.stackItemEnds_idle {s : State} (h : s.stackUnit.work = none) : s.stackItemEnds = s := by
  have same : (⟨s.stackUnit.list, none⟩ : StackUnit) = s.stackUnit := by rw [← h]
  simp only [State.stackItemEnds, same]

/-! ### The end of a drain (R170, R171) -/

theorem State.drainEnd_stays {s : State} (h : s.mode ≠ .draining ∨ s.liveSweeps ≠ []) : s.drainEnd = s :=
  if_neg fun both => h.elim (· both.1) (· (List.isEmpty_iff.mp both.2))

theorem State.drainEnd_enters {s : State} (mode : s.mode = .draining) (none : s.liveSweeps = []) :
    s.drainEnd = s.enterIdle .drainEnd := if_pos ⟨mode, List.isEmpty_iff.mpr none⟩

/-- Whether the engine's item in progress is a PROCESS. -/
def EngineWork.processes (w : EngineWork) : Bool := match w.job with
  | .clear _ => false
  | .process _ _ => true

/-- PROCESS work leaves the engine, with its transfer abandoned (R18, R25). -/
theorem State.abandonProcess_eq (s : State) : s.abandonProcess = { s with
    engine := { s.engine with work := if s.engine.work.any EngineWork.processes then none else s.engine.work }
    port := if s.engine.work.any EngineWork.processes then s.port.abandon .engine else s.port } := by
  unfold State.abandonProcess
  split
  · rename_i work
    have busy : s.engine.work.any EngineWork.processes = true := by simp [work, EngineWork.processes]
    simp only [busy, if_true]
  · rename_i work
    have clears : s.engine.work.any EngineWork.processes = false := by simp [work, EngineWork.processes]
    simp only [clears, Bool.false_eq_true, if_false]
  · rename_i work
    have idle : s.engine.work.any EngineWork.processes = false := by simp [work]
    simp only [idle, Bool.false_eq_true, if_false]

/-- The items that an entry into IDLE leaves on the engine work list. -/
def EngineItem.clears : EngineItem → Bool
  | .clear _ => true
  | .process _ => false

/-- An entry into IDLE: Scan Staging and the PROCESS work go, the Stall Timer stops, then the mode changes (R17, R18, R170). -/
theorem State.enterIdle_eq (s : State) (cause : ModeCause) : s.enterIdle cause = State.changeMode { s with
    assembler := ⟨[], none, none⟩
    engine := ⟨s.engine.list.filter EngineItem.clears, if s.engine.work.any EngineWork.processes then none else s.engine.work⟩
    port := if s.engine.work.any EngineWork.processes then s.port.abandon .engine else s.port
    sweeps := { s.sweeps with stallTimer := none } } .idle .idle cause := by
  unfold State.enterIdle State.clearAssembler
  simp only [State.abandonProcess_eq]
  rfl

/-- The mode that an entry into IDLE reports, with its cause (12.5). -/
theorem modeChangedDetail_idle {cause : ModeCause} {code : Nat} (h : (cause, code) ∈ [(.setMode, 1), (.drainEnd, 2), (.engineReset, 3)]) :
    modeChangedDetail .idle cause = 1 + 256 * code := by
  simp only [List.mem_cons, Prod.mk.injEq, List.not_mem_nil, or_false] at h
  obtain ⟨rfl, rfl⟩ | ⟨rfl, rfl⟩ | ⟨rfl, rfl⟩ := h <;> rfl

/-! ### The end of a fold (R87) -/

/-- A fold that stacked no channel raises no fold count. -/
theorem raiseCounts_nil (counts : List Nat) : raiseCounts [] counts = counts := by
  simp [raiseCounts]

/-- The fold counts of the stacked channels are raised by one. -/
theorem raiseCounts_eq (stacked counts : List Nat) :
    raiseCounts stacked counts = counts.mapIdx (fun c k => if c ∈ stacked then k + 1 else k) := by
  simp [raiseCounts, List.mapIdx_eq_zipIdx_map]

/-! ### The beginning of a fold (R84) -/

/-- The Stack Unit takes the FOLD of a live sweep. -/
theorem State.fold_at {s m : State} {e : Nat} {w : Sweep} {rest : List StackItem} (hm : m = s.caughtUp)
    (hu : m.stackUnit = ⟨.fold e :: rest, none⟩) (hw : m.sweep? e = some w) :
    exec .fold s = .next (State.settle (State.beginFold { m with stackUnit := ⟨rest, none⟩ } e w)) := by
  have due : m.foldDue = true := by simp [State.foldDue, hu]
  have sweep : State.sweep? { m with stackUnit := ⟨rest, none⟩ } e = some w := hw
  have taken : m.takeFold = State.beginFold { m with stackUnit := ⟨rest, none⟩ } e w := by
    simp only [State.takeFold, hu, sweep]
  have row : exec .fold s = .next m.takeFold.settle := State.laterEvent_at hm due
  rw [row, taken]

theorem State.beginFold_stacked {s : State} {e : Nat} {w : Sweep} (h : w.outcome = some .stacked) : s.beginFold e w =
    State.foldFrom { w with state := .folding } false (w.startingSet.getD []) (FoldWork.start e w.slot)
      (s.setSweep e (some { w with state := .folding })) := by
  simp only [State.beginFold, h]

theorem State.beginFold_recordOnly {s : State} {e : Nat} {w : Sweep} {o : SweepOutcome} (h : w.outcome = some o) (other : o ≠ .stacked) :
    s.beginFold e w = State.foldEnd (s.setSweep e (some { w with state := .folding })) (FoldWork.start e w.slot)
      { w with state := .folding } o := by
  unfold State.beginFold
  simp only [h]

/-- A fold that ends with no item in progress. -/
theorem State.foldEnd_idle {s : State} (f : FoldWork) (w : Sweep) (o : SweepOutcome) (h : s.stackUnit.work = none) :
    s.foldEnd f w o = State.drainEnd (State.completeTest (State.setSweep (State.submit (s.setSlot f.slot { s.slotEntry f.slot with
      contributors := (s.slotEntry f.slot).contributors ++ [f.contributor w.tag o]
      foldCounts := raiseCounts f.stacked (s.slotEntry f.slot).foldCounts }) .sweepEnded w.tag none o.code) f.entry none) f.slot) := by
  unfold State.foldEnd
  simp only
  rw [State.stackItemEnds_idle]
  rw [State.completeTest_work]
  exact h

/-- Settles O29: the end of the fold in the order of R87, and the two tests that follow it. -/
theorem recordOnlyFoldAndItsEnd : Obligations.RecordOnlyFoldAndItsEnd := by
  refine ⟨?_, ?_, fun s => ⟨State.drainEnd_stays, State.drainEnd_enters⟩, ?_⟩
  · intro s m x y e w outcome code rest hm hu hw houtcome hcode hx hy
    have other : outcome ≠ .stacked ∧ outcome.code = code := by
      simp only [List.mem_cons, Prod.mk.injEq, List.not_mem_nil, or_false] at hcode
      obtain ⟨rfl, rfl⟩ | ⟨rfl, rfl⟩ | ⟨rfl, rfl⟩ | ⟨rfl, rfl⟩ | ⟨rfl, rfl⟩ := hcode <;> exact ⟨nofun, rfl⟩
    obtain ⟨unstacked, rfl⟩ := other
    rw [State.fold_at hm hu hw, State.beginFold_recordOnly houtcome unstacked, State.foldEnd_idle _ _ _ rfl, hy, hx]
    simp only [FoldWork.start, raiseCounts_nil, State.setSweep, State.submit_sweeps, State.setSlot_sweeps, List.set_set]
    rfl
  · intro s i d hd
    subst hd
    exact ⟨State.completeTest_completes, State.completeTest_refuses⟩
  · intro s cause code process hcode hprocess
    have processes : process = s.engine.work.any EngineWork.processes := hprocess
    have entered := s.enterIdle_eq cause
    rw [State.changeMode, modeChangedDetail_idle hcode, ← processes] at entered
    exact entered

/-! ### The channels that a stacking fold passes over (R85) -/

/-- Channels out of the active set are counted muted, holed ones holed, and the fold goes on with the channels after them. -/
theorem State.foldFrom_passed (w : Sweep) (faulted : Bool) (rest : List Nat) (s : State) : ∀ (passed : List Nat) (f : FoldWork),
    (∀ x ∈ passed, x ∉ w.activeSet.getD [] ∨ x ∈ w.holedSet) →
    State.foldFrom w faulted (passed ++ rest) f s = State.foldFrom w faulted rest { f with
      muted := f.muted + (passed.filter (fun x => x ∉ w.activeSet.getD [])).length
      holed := f.holed + (passed.filter (fun x => x ∈ w.activeSet.getD [])).length } s
  | [], f, _ => rfl
  | c :: passed, f, h => by
    have later := fun g => State.foldFrom_passed w faulted rest s passed g fun x hx => h x (List.mem_cons_of_mem _ hx)
    rw [List.cons_append, State.foldFrom]
    by_cases active : c ∈ w.activeSet.getD []
    · have holed : c ∈ w.holedSet := (h c List.mem_cons_self).resolve_left (not_not.mpr active)
      have heard : w.active.contains c = true := by simpa [Sweep.active] using active
      rw [heard, if_neg (by simp), if_pos (by simpa using holed), later]
      simp [active, Nat.add_assoc, Nat.add_comm 1]
    · have silent : w.active.contains c = false := by simpa [Sweep.active] using active
      rw [silent, if_pos Bool.not_false, later]
      simp [active, Nat.add_assoc, Nat.add_comm 1]

/-- The first other channel has its accumulators read. -/
theorem State.foldFrom_reads {w : Sweep} {faulted : Bool} {c : Nat} {after : List Nat} {f : FoldWork} {s : State}
    (active : c ∈ w.activeSet.getD []) (sound : c ∉ w.holedSet) : State.foldFrom w faulted (c :: after) f s =
      s.issueFoldRead { f with channel := c, rest := after, values := [] } faulted 0 w.lags := by
  have heard : w.active.contains c = true := by simpa [Sweep.active] using active
  rw [State.foldFrom, heard, if_neg (by simp), if_neg (by simpa using sound)]

/-- Settles O30: the fold begins at the starting set, passes to its first channel to read, and ends when there is none. -/
theorem stackingFold : Obligations.StackingFold := by
  refine ⟨?_, ?_, ?_⟩
  · intro s m e w u rest hm hu hw houtcome hv
    subst hv
    rw [State.fold_at hm hu hw, State.beginFold_stacked houtcome]
    rfl
  · intro s w faulted passed after c n muted holed f hpassed active sound hmuted hholed hn lags
    subst hmuted hholed
    rw [State.foldFrom_passed w faulted (c :: after) s passed f hpassed, State.foldFrom_reads active sound,
      State.issueFoldRead_eq lags hn]
    rfl
  · intro s x y w faulted rest f d muted holed hd hrest hmuted hholed hx hy
    subst hd hmuted hholed hx hy
    rw [State.foldFrom_end w faulted rest f s hrest, ← raiseCounts_eq]
    rfl

end Sys2Proof.Machine
end

section
/-! PROOFS. SEAL write by write (R94, R95, R107), the words of a sealed header (12.6), and what a FAULT of a Stack Unit transfer does in a
CLEAR, a FOLD and a SEAL (R83, R90, R94). -/

namespace Sys2Proof.Machine

/-! ### The entries of a table in use -/

/-- The indexes of the entries in use that meet a test, in increasing order. -/
theorem zipIdx_filter_indexes {α : Type} (p : α → Bool) (l : List (Option α)) :
    ((l.zipIdx.filterMap (fun x => x.1.map (fun e => (x.2, e)))).filter (fun x => p x.2)).map (·.1) =
      (List.range l.length).filter (fun k => (l[k]?).join.any p) := by
  induction l using List.reverseRecOn with
  | nil => rfl
  | append_singleton l x ih =>
    have before : (List.range l.length).filter (fun k => ((l ++ [x])[k]?).join.any p) =
        (List.range l.length).filter (fun k => (l[k]?).join.any p) :=
      List.filter_congr fun k hk => by rw [List.getElem?_append_left (List.mem_range.mp hk)]
    rw [List.length_append, List.length_singleton, List.range_succ, List.filter_append, before, ← ih]
    cases x with
    | none => simp [List.zipIdx_append]
    | some e => cases hp : p e <;> simp [List.zipIdx_append, hp]

/-- The end of a seal has the waiting reads of the slot fetched, in increasing entry index (R107). -/
theorem State.fetchAtSeal_eq (s : State) (i : Nat) : s.fetchAtSeal i = { s with drq := { s.drq with
    entries := s.drq.entries.map (Option.map (fun e =>
      if e.slot = i ∧ e.state = .waiting then { e with state := .fetching } else e))
    fetchOrder := s.drq.fetchOrder ++ (List.range s.drq.entries.length).filter (fun k =>
      (s.drq.entries[k]?).join.any (fun e => e.slot = i ∧ e.state = .waiting)) } } := by
  have waits : (fun e : DrqEntry => decide (e.slot = i ∧ e.state = .waiting)) = fun e => e.slot == i && e.state == .waiting :=
    funext fun _ => Bool.decide_and _ _
  rw [waits, ← zipIdx_filter_indexes]
  rfl

/-! ### The words of a seal (R94, 12.6) -/

theorem DirEntry.sealedDetail_eq (d : DirEntry) : d.sealedDetail =
    d.contributors.length + (if d.damaged then 256 else 0) + (if d.headerFault then 512 else 0) := by
  rw [← flag_mul, ← flag_mul]
  rfl

/-- The fold counts come first. -/
theorem DirEntry.sealWrite_counts (d : DirEntry) {c j : Nat} (h : j < (c + 15) / 16) :
    d.sealWrite c j = (1024 + 64 * j, (((d.foldCounts.take c).drop (16 * j)).take 16).map word) := if_pos h

/-- The header follows, its block 0 last. -/
theorem DirEntry.sealWrite_header (d : DirEntry) {c j b block : Nat} (hj : j = (c + 15) / 16 + b) (hb : (b + 1) % 16 = block) :
    d.sealWrite c j = (64 * block, (d.headerWords.drop (16 * block)).take 16) := by
  subst hj hb
  have number : (c + 15) / 16 + b - foldCountWrites c + 1 = b + 1 := by
    unfold foldCountWrites
    omega
  have header : ¬ (c + 15) / 16 + b < foldCountWrites c := by
    unfold foldCountWrites
    omega
  simp only [DirEntry.sealWrite, if_neg header, number]

/-- The words of a header before the zeros that fill it. -/
def DirEntry.headerBody (d : DirEntry) : List Word :=
  [word (4 + (if d.damaged = true then 2 ^ 8 else 0)), word d.sourcePoint,
    word (d.foldTarget + 2 ^ 8 * d.notices + 2 ^ 16 * d.contributors.length), word d.lags, word (d.first + 2 ^ 16 * d.last),
    word (d.gapFirst + 2 ^ 16 * d.gapLast), word d.editLimit, word (d.editLimit / 2 ^ 32), word d.contributors.length,
    0, 0, 0, 0, 0, 0, 0] ++ d.contributors.flatMap Contributor.words

theorem DirEntry.headerBody_length (d : DirEntry) : d.headerBody.length = 16 + 4 * d.contributors.length := by
  have contributors : (d.contributors.flatMap Contributor.words).length = 4 * d.contributors.length := by
    simp [List.length_flatMap, Contributor.words, Nat.mul_comm]
  rw [DirEntry.headerBody, List.length_append, contributors]
  rfl

theorem DirEntry.headerWords_eq (d : DirEntry) :
    d.headerWords = d.headerBody ++ List.replicate (256 - d.headerBody.length) 0 := by
  have body : d.headerBody = word (SlotState.sealed.code + 2 ^ 8 * flag d.damaged) :: d.commonWords ++ [word d.contributions] ++
      List.replicate 7 0 ++ d.contributors.flatMap Contributor.words := by
    rw [flag_mul]
    rfl
  rw [body]
  rfl

/-! ### The next write of a seal, and its end (R94, R95) -/

theorem State.continueSeal_writes {s : State} {i j : Nat} {faulted : Bool} (h : j < (s.geometry.c + 15) / 16 + 16) :
    s.continueSeal i j faulted = s.issueStack ⟨.seal i (j + 1), faulted⟩
      (.write ((s.slotRange i).base + ((s.slotEntry i).sealWrite s.geometry.c j).1) ((s.slotEntry i).sealWrite s.geometry.c j).2) :=
  if_pos h

theorem State.continueSeal_ends {s : State} {i j : Nat} {faulted : Bool} (h : (s.geometry.c + 15) / 16 + 16 ≤ j) :
    s.continueSeal i j faulted = State.stackItemEnds (State.fetchAtSeal (State.submit
      (s.setSlot i { s.slotEntry i with state := .sealed }) .stackSealed (s.slotEntry i).sourcePoint none
      ((s.slotEntry i).contributors.length + (if (s.slotEntry i).damaged then 256 else 0) +
        (if (s.slotEntry i).headerFault then 512 else 0))) i) := by
  have detail := DirEntry.sealedDetail_eq { s.slotEntry i with state := .sealed }
  simp only [State.continueSeal]
  rw [if_neg (show ¬ j < foldCountWrites s.geometry.c + 16 from Nat.not_lt.mpr h), detail]

/-- The state that a seal leaves at its end. -/
theorem State.continueSeal_sealed {s y : State} {i j : Nat} {faulted : Bool} {d : DirEntry} (h : (s.geometry.c + 15) / 16 + 16 ≤ j)
    (hd : d = s.slotEntry i)
    (hy : y = State.submit { s with
      directory := s.directory.set i { d with state := .sealed }
      reports := { s.reports with stale := s.reports.stale.set i true }
      stackUnit := { s.stackUnit with work := none } } .stackSealed d.sourcePoint none
      (d.contributors.length + (if d.damaged then 256 else 0) + (if d.headerFault then 512 else 0))) :
    s.continueSeal i j faulted = { y with drq := { s.drq with
      entries := s.drq.entries.map (Option.map (fun e =>
        if e.slot = i ∧ e.state = .waiting then { e with state := .fetching } else e))
      fetchOrder := s.drq.fetchOrder ++ (List.range s.drq.entries.length).filter (fun k =>
        (s.drq.entries[k]?).join.any (fun e => e.slot = i ∧ e.state = .waiting)) } } := by
  subst hd hy
  rw [State.continueSeal_ends h, State.fetchAtSeal_eq]
  rfl

theorem State.slotEntry_setSlot_self {s : State} {i : Nat} (d : DirEntry) (h : i < s.directory.length) :
    (s.setSlot i d).slotEntry i = d := by
  rw [State.slotEntry, State.setSlot_directory, List.getD_eq_getElem _ _ (by simpa using h), List.getElem_set_self]

/-- The Stack Unit takes a SEAL: the slot is SEALING, and the first block of its fold counts is written. -/
theorem State.takeSeal_first {m : State} {i : Nat} {rest : List StackItem} {d : DirEntry} (hu : m.stackUnit = ⟨.seal i :: rest, none⟩)
    (hi : i < m.directory.length) (hd : d = { m.slotEntry i with state := .sealing }) (hc : 1 ≤ m.geometry.c) :
    m.takeSeal = State.issueStack (State.setSlot { m with stackUnit := ⟨rest, none⟩ } i d) ⟨.seal i 1, false⟩
      (.write ((m.slotRange i).base + 1024) (((d.foldCounts.take m.geometry.c).take 16).map word)) := by
  have taken : m.takeSeal = (State.setSlot { m with stackUnit := ⟨rest, none⟩ } i d).continueSeal i 0 false := by
    simp only [State.takeSeal, hu, hd]
    rfl
  have entry : (State.setSlot { m with stackUnit := ⟨rest, none⟩ } i d).slotEntry i = d := State.slotEntry_setSlot_self d hi
  have first := d.sealWrite_counts (c := m.geometry.c) (j := 0) (by omega)
  rw [taken, State.continueSeal_writes (Nat.succ_pos _), entry, State.setSlot_geometry, first]
  rfl

/-- A write of a seal has been answered OK. -/
theorem State.stackAnswered_seal {s : State} {i j : Nat} {faulted : Bool} (h : s.stackUnit.work = some ⟨.seal i j, faulted⟩)
    (words : List Word) : s.stackAnswered true words = s.continueSeal i j faulted := by
  simp [State.stackAnswered, h, State.sealAnswered]

/-- Settles O32: the first write, the writes that the answers bring, and the words of each. -/
theorem sealInOrder : Obligations.SealInOrder := by
  refine ⟨?_, ?_, ?_, ?_, rfl⟩
  · intro s m i rest d hm hu hi hd hc
    have due : m.sealDue = true := by simp [State.sealDue, hu]
    have row : exec .seal s = .next m.takeSeal.settle := State.laterEvent_at hm due
    rw [row, State.takeSeal_first hu hi hd hc]
    rfl
  · intro s m x y o i j faulted d hm ho hx hwork hd
    have answered : x.stackAnswered true (m.memory.answerWords o.transfer .ok) = x.continueSeal i j faulted :=
      State.stackAnswered_seal (by rw [hx]; exact hwork) _
    have geometry : x.geometry = m.geometry := by rw [hx]; rfl
    have entry : d = x.slotEntry i := by rw [hd, hx]; rfl
    rw [State.stackAnswer_at hm ho, ← hx, answerOk, answered]
    refine ⟨fun more => ?_, fun last hy => ?_⟩
    · rw [State.continueSeal_writes (geometry ▸ more), ← entry, hx]
      rfl
    · have sealed := State.continueSeal_sealed (y := y) (faulted := faulted) (geometry ▸ last) entry (by rw [hy, hx]; rfl)
      rw [sealed, hx]
      rfl
  · intro d c j
    exact ⟨d.sealWrite_counts, fun b hb => d.sealWrite_header rfl (Nat.mod_eq_of_lt (by omega)), d.sealWrite_header rfl rfl⟩
  · intro d contributors
    have filled : 256 - d.headerBody.length = 240 - 4 * d.contributors.length := by
      rw [d.headerBody_length]
      omega
    have words := d.headerWords_eq
    refine ⟨?_, ?_⟩
    · rw [words, filled]
      rfl
    · rw [words, List.length_append, List.length_replicate, d.headerBody_length]
      omega

/-! ### A FAULT of a Stack Unit transfer (R83, R90, R94) -/

theorem State.stackAnswered_clearFault {s : State} {i cursor : Nat} {faulted : Bool}
    (h : s.stackUnit.work = some ⟨.clear i cursor, faulted⟩) (words : List Word) :
    s.stackAnswered false words = (s.stackDamage i faulted .slotClear).continueSlotClear i cursor true := by
  simp [State.stackAnswered, h, State.slotClearAnswered]

theorem State.stackAnswered_foldFault {s : State} {f : FoldWork} {w : Sweep} {faulted : Bool}
    (h : s.stackUnit.work = some ⟨.fold f, faulted⟩) (hw : s.sweep? f.entry = some w) (words : List Word) :
    s.stackAnswered false words = s.foldAnsweredFault f w faulted := by
  simp [State.stackAnswered, h, hw]

/-- The accumulators could not be read. -/
theorem State.foldAnsweredFault_scratch {s : State} {f : FoldWork} {w : Sweep} {faulted : Bool} {lag n : Nat}
    (h : f.phase = .scratchRead lag n) : s.foldAnsweredFault f w faulted =
      State.foldFrom w true f.rest { f with holed := f.holed + 1 } (s.stackDamage f.slot faulted .foldScratch) := by
  simp only [State.foldAnsweredFault, h]
  rfl

/-- The sums could not be read or written. -/
theorem State.foldAnsweredFault_sums {s : State} {f : FoldWork} {w : Sweep} {faulted : Bool} {lag n : Nat}
    (h : f.phase = .sumsRead lag n ∨ f.phase = .sumsWrite lag n) : s.foldAnsweredFault f w faulted =
      State.foldFrom w true f.rest f (s.stackDamage f.slot faulted .foldSums) := by
  obtain h | h := h <;> (simp only [State.foldAnsweredFault, h]; rfl)

/-- The header of the slot is marked, the FAULT is reported when it is the item's first, and the seal goes on. -/
theorem State.stackAnswered_sealFault {s y : State} {i next : Nat} {faulted : Bool} {d : DirEntry}
    (h : s.stackUnit.work = some ⟨.seal i next, faulted⟩) (hd : d = s.slotEntry i)
    (hy : y = if d.headerFault = true then s else s.setSlot i { d with headerFault := true }) (words : List Word) :
    s.stackAnswered false words =
      State.continueSeal (if faulted = true then y else y.submit .partFault d.sourcePoint none 9) i next true := by
  subst hd hy
  simp only [State.stackAnswered, h, State.sealAnswered, Bool.false_eq_true, if_false]
  rfl

/-- The slot is DAMAGED, and the FAULT is reported when it is the item's first (R90). -/
theorem State.stackDamage_eq {s z : State} {slot : Nat} {op : PartOperation} {d : DirEntry} (hd : d = s.slotEntry slot)
    (hz : z = if d.damaged = true then s else s.setSlot slot { d with damaged := true }) :
    s.stackDamage slot true op = z ∧ s.stackDamage slot false op = z.submit .partFault d.sourcePoint none op.code := by
  subst hd hz
  exact ⟨rfl, rfl⟩

/-- Settles O33: each item's answer to a FAULT, and the steps with which it goes on. -/
theorem stackUnitFault : Obligations.StackUnitFault := by
  intro s m x o landed faulted hm ho hx
  have answered := State.stackAnswer_at hm ho (.fault landed)
  rw [← hx, answerOk] at answered
  have work : x.stackUnit = m.stackUnit := by rw [hx]; rfl
  refine ⟨fun i cursor hwork => ?_, fun f w hwork hw => ?_, fun i next d y hwork hi hd hy => ?_, fun y i cursor => ?_,
    fun y z i j d hd => ?_, fun y z slot code op d hd hop hz => ?_⟩
  · rw [answered, State.stackAnswered_clearFault (work ▸ hwork)]
  · have sweep : x.sweep? f.entry = some w := by rw [hx]; exact hw
    rw [answered, State.stackAnswered_foldFault (work ▸ hwork) sweep]
    refine ⟨fun lag n phase => ?_, fun lag n phase => ?_⟩
    · rw [State.foldAnsweredFault_scratch phase]
    · rw [State.foldAnsweredFault_sums phase]
  · have entry : d = x.slotEntry i := by rw [hd, hx]; rfl
    have marked : y = if d.headerFault = true then x else x.setSlot i { d with headerFault := true } := by rw [hy, hx]; rfl
    rw [answered, State.stackAnswered_sealFault (work ▸ hwork) entry marked]
  · exact ⟨State.continueSlotClear_ends, fun start n => State.continueSlotClear_next⟩
  · refine ⟨fun more => ?_, fun last hz => State.continueSeal_sealed last hd hz⟩
    rw [State.continueSeal_writes more, ← hd]
    rfl
  · have operation : op.code = code := by
      simp only [List.mem_cons, Prod.mk.injEq, List.not_mem_nil, or_false] at hop
      obtain ⟨rfl, rfl⟩ | ⟨rfl, rfl⟩ | ⟨rfl, rfl⟩ := hop <;> rfl
    rw [← operation]
    exact State.stackDamage_eq hd hz

end Sys2Proof.Machine
end

section
/-! PROOFS. The answers to the Report Unit client's record, producer and mirror writes (R97, R174, R177, R178). -/

namespace Sys2Proof.Machine

/-- The Report Unit's client acts on the answer to its write, whichever row of its kind brings it. -/
theorem State.reportAnswer_at {s m : State} {o : Outstanding} {out : ReportOut} (hm : m = s.caughtUp) (ho : m.awaits .reportUnit o)
    (hout : m.reports.out = some out) (a : DramAnswer) :
    State.laterEvent (State.reportDue out.write.kind) (State.attemptAnswered a) s =
      .next (State.settle ((m.answeredFor .reportUnit o a).reportAnswered (answerOk a))) := by
  have answered : m.attemptAnswered a = (m.answeredFor .reportUnit o a).reportAnswered _ := State.attemptAnswered_client ho a
  rw [← answered]
  exact State.laterEvent_at hm (by simp [State.reportDue, ho.clientDue, hout])

section
variable {s x : State} (hx : x = { s with reports := { s.reports with out := none } })
include hx

theorem State.reportAnswered_record {r : Record} {place : Nat} (h : s.reports.out = some ⟨.record r place, false⟩) (ok : Bool) :
    s.reportAnswered ok = x.recordAnswered ok r place := by
  simp only [State.reportAnswered, h, hx]

theorem State.reportAnswered_producer {reset : Bool} (h : s.reports.out = some ⟨.producer reset, false⟩) (ok : Bool) :
    s.reportAnswered ok = x.producerAnswered ok reset := by
  simp only [State.reportAnswered, h, hx]

theorem State.reportAnswered_mirror {slot : Nat} (h : s.reports.out = some ⟨.mirror slot, false⟩) (ok : Bool) :
    s.reportAnswered ok = x.mirrorAnswered ok slot := by
  simp only [State.reportAnswered, h, hx]

/-- An answer that a SET_REPORTS has discarded has no effect (R174). -/
theorem State.reportAnswered_discarded {w : ReportWrite} (h : s.reports.out = some ⟨w, true⟩) (ok : Bool) : s.reportAnswered ok = x := by
  simp only [State.reportAnswered, h, hx]

end

/-- A record that could not be written is pending, and is reported unless it is itself a PART_FAULT or COALESCED (R177, R178). -/
theorem State.recordAnswered_fault (s : State) (r : Record) (place : Nat) : s.recordAnswered false r place =
    if r.kind = .partFault ∨ r.coalesced = true then { s with reports := s.reports.loseRecord r }
    else State.submit { s with reports := s.reports.loseRecord r } .partFault place none 13 := rfl

/-- A producer write that could not be made is reported when it is the first of a run, or one of SET_REPORTS (R178). -/
theorem State.producerAnswered_fault (s : State) (reset : Bool) : s.producerAnswered false reset =
    if reset = true ∨ s.reports.producerOk = true
    then State.submit { s with reports := { s.reports with producerOk := false } } .partFault s.reports.producer none 14
    else { s with reports := { s.reports with producerOk := false } } := by
  simp only [State.producerAnswered, Bool.not_false, Bool.true_and, Bool.or_eq_true]
  rfl

/-- Settles O39: the effect of each answer, by the kind of the write that is outstanding. -/
theorem reportWritesAnswered : Obligations.ReportWritesAnswered := by
  intro s m x o write a hm ho hx
  refine ⟨fun r place lost hout hlost => ?_, fun reset hout => ?_, fun slot hout => ?_, fun hout => ?_⟩
  · have row : exec (.reportWriteAnswer a) s = _ := State.reportAnswer_at hm ho hout a
    rw [row, State.reportAnswered_record hx hout]
    refine ⟨fun ok => ?_, fun landed fault => ?_⟩
    · subst ok hx
      rfl
    · subst fault hlost
      rw [answerOk, State.recordAnswered_fault]
      rfl
  · have row : exec (.producerWriteAnswer a) s = _ := State.reportAnswer_at hm ho hout a
    rw [row, State.reportAnswered_producer hx hout]
    refine ⟨fun ok => ?_, fun landed y fault hy => ?_⟩
    · subst ok
      rfl
    · subst fault hy
      have reports : x.reports = { m.reports with out := none } := by rw [hx]
      rw [answerOk, State.producerAnswered_fault, reports]
  · have row : exec (.mirrorWriteAnswer a) s = _ := State.reportAnswer_at hm ho hout a
    rw [row, State.reportAnswered_mirror hx hout]
    refine ⟨fun ok => ?_, fun landed fault => ?_⟩
    · subst ok
      rfl
    · subst fault
      rfl
  · refine ⟨fun r place hw => ?_, fun reset hw => ?_⟩
    · subst hw
      have row : exec (.reportWriteAnswer a) s = _ := State.reportAnswer_at hm ho hout a
      rw [row, State.reportAnswered_discarded hx hout]
    · subst hw
      have row : exec (.producerWriteAnswer a) s = _ := State.reportAnswer_at hm ho hout a
      rw [row, State.reportAnswered_discarded hx hout]

end Sys2Proof.Machine
end

section
/-! PROOFS. SET_WINDOW and WINDOW_CHANGE (R75, R120, R156, R157): the settings that the operands spell, the checks, and the wait for the
change. -/

namespace Sys2Proof.Machine

/-! ### Ranges of bytes -/

theorem Range.within_iff (q r : Range) : q.within r = true ↔ r.base ≤ q.base ∧ q.base + q.size ≤ r.base + r.size := by
  simp [Range.within, Range.limit, Nat.add_comm]

/-- Two ranges that are not empty meet when they share a byte. -/
theorem Range.meets_iff {q r : Range} (hr : 1 ≤ r.size) (hq : 1 ≤ q.size) : q.meets r = true ↔
    ∃ a, q.base ≤ a ∧ a < q.base + q.size ∧ r.base ≤ a ∧ a < r.base + r.size := by
  have meets : q.meets r = true ↔ q.base < r.limit ∧ r.base < q.limit := by simp [Range.meets]
  rw [meets, Range.limit, Range.limit]
  constructor
  · rintro ⟨below, above⟩
    exact ⟨max q.base r.base, by omega, by omega, by omega, by omega⟩
  · rintro ⟨a, h⟩
    omega

/-! ### The settings that the operands spell (R156) -/

theorem baseInRange_iff (base : Nat) : baseInRange base = true ↔ base ≤ 2 ^ 40 - 1 ∧ base % 64 = 0 := by
  simp only [baseInRange, Bool.and_eq_true, decide_eq_true_eq, beq_iff_eq]
  rfl

section
variable {q : QueueEntry}

/-- A selector of no window fails check 1: the four inequations leave only the last branch of the match. -/
theorem QueueEntry.windowSetting_unknown (h : q.whole 1 ∉ [1, 2, 3, 4]) : q.windowSetting = none := by
  simp only [List.mem_cons, List.not_mem_nil, or_false, not_or] at h
  obtain ⟨h1, h2, h3, h4⟩ := h
  simp only [QueueEntry.windowSetting]

/-- The settings of a RAW window. -/
theorem QueueEntry.windowSetting_raw (h : q.whole 1 = 1) : q.windowSetting =
    if q.whole 4 = 0 then some (.raw none)
    else if q.wide 2 ≤ 2 ^ 40 - 1 ∧ q.wide 2 % 64 = 0 ∧ 16 ≤ q.whole 4 ∧ q.whole 4 ≤ 4096 then
      if q.whole 5 = 1 then some (.raw (some ⟨q.wide 2, q.whole 4, .tap⟩))
      else if q.whole 5 = 2 then some (.raw (some ⟨q.wide 2, q.whole 4, .absorb⟩))
      else none
    else none := by
  unfold QueueEntry.windowSetting
  simp only [h, Bool.and_eq_true, baseInRange_iff, decide_eq_true_eq, and_assoc]
  split
  · rfl
  · split
    · split
      · rw [if_pos ‹_›]
      · rename_i mode
        rw [mode, if_neg (by decide), if_pos rfl]
      · rename_i tap absorb
        rw [if_neg tap, if_neg absorb]
    · rfl

/-- The settings of a STACK window. -/
theorem QueueEntry.windowSetting_stack (h : q.whole 1 = 2) : q.windowSetting =
    if q.whole 4 = 0 then some (.stack none)
    else if q.wide 2 ≤ 2 ^ 40 - 1 ∧ q.wide 2 % 64 = 0 ∧ q.whole 4 ≤ 32 then some (.stack (some ⟨q.wide 2, q.whole 4⟩))
    else none := by
  unfold QueueEntry.windowSetting
  simp only [h, Bool.and_eq_true, baseInRange_iff, decide_eq_true_eq, and_assoc]

/-- The settings of a SCRATCH window. -/
theorem QueueEntry.windowSetting_scratch (h : q.whole 1 = 3) : q.windowSetting =
    if q.whole 4 = 0 then some (.scratch none)
    else if q.wide 2 ≤ 2 ^ 40 - 1 ∧ q.wide 2 % 64 = 0 ∧ q.whole 4 = 24 then some (.scratch (some ⟨q.wide 2⟩))
    else none := by
  unfold QueueEntry.windowSetting
  simp only [h, Bool.and_eq_true, baseInRange_iff, beq_iff_eq, and_assoc]
  rfl

/-- The settings of a PILOT window. -/
theorem QueueEntry.windowSetting_pilot (h : q.whole 1 = 4) : q.windowSetting =
    if q.wide 4 < q.wide 2 then some (.pilot none)
    else if q.wide 2 ≤ 2 ^ 40 - 1 ∧ q.wide 2 % 64 = 0 ∧ q.wide 4 ≤ 2 ^ 40 - 1 ∧ (q.wide 4 + 1) % 64 = 0
    then some (.pilot (some ⟨q.wide 2, q.wide 4⟩))
    else none := by
  unfold QueueEntry.windowSetting
  simp only [h, Bool.and_eq_true, baseInRange_iff, decide_eq_true_eq, beq_iff_eq, and_assoc]
  rfl

end

/-! ### The windows and their bytes (R75, R120) -/

/-- The bytes of the windows given that are on. -/
theorem filterMap_range_three (g : Geometry) (a b c : WindowSetting) :
    [a, b, c].filterMap (fun w => w.range g) = [a.range g, b.range g, c.range g].filterMap id := by
  simp [List.filterMap_cons]

/-! ### The checks of SET_WINDOW (R156) -/

section
variable {s : State} {w : WindowSetting}

theorem State.windowStateOk_false (h : (∃ x, w = .stack x) ∧ (∃ d ∈ s.directory, d.state ≠ .free) ∨
    (∃ x, w = .pilot x ∧ ∃ p ∈ s.pilots, p.state ≠ .empty ∧ ∀ y, x = some y → p.extent.within y.range = false)) :
    s.windowStateOk w = false := by
  obtain ⟨⟨x, rfl⟩, used⟩ | ⟨x, rfl, p, hp, held, outside⟩ := h
  · simpa [State.windowStateOk] using used
  · simp only [State.windowStateOk, List.all_eq_false]
    refine ⟨p, hp, ?_⟩
    cases x with
    | none => simp [held]
    | some y => simp [held, outside y rfl]

theorem State.windowStateOk_true (stack : ∀ x, w = .stack x → ∀ d ∈ s.directory, d.state = .free)
    (pilot : ∀ x, w = .pilot x → ∀ p ∈ s.pilots, p.state = .empty ∨ ∃ y, x = some y ∧ p.extent.within y.range = true) :
    s.windowStateOk w = true := by
  cases w with
  | raw | scratch => rfl
  | stack x => simpa [State.windowStateOk] using stack x rfl
  | pilot x =>
    simp only [State.windowStateOk, List.all_eq_true]
    intro p hp
    obtain empty | ⟨y, rfl, inside⟩ := pilot x rfl p hp
    · simp [empty]
    · simp [inside]

theorem State.windowStatus_notReady (h : s.geometry.c = 0) : s.windowStatus w = some .notReady := by
  simp [State.windowStatus, Geometry.isSet, h]

variable (set : s.geometry.c ≠ 0)
include set

theorem State.windowStatus_badState (h : s.windowStateOk w = false) : s.windowStatus w = some .badState := by
  simp [State.windowStatus, Geometry.isSet, set, h]

variable (state : s.windowStateOk w = true)
include state

/-- A setting that turns its window off has no range to check. -/
theorem State.windowStatus_off (h : w.range s.geometry = none) : s.windowStatus w = none := by
  simp [State.windowStatus, Geometry.isSet, set, state, h]

variable {r : Range} (range : w.range s.geometry = some r)
include range

theorem State.windowStatus_tooSmall (h : 2 ^ 40 - 1 < r.base + r.size - 1) : s.windowStatus w = some .tooSmall := by
  rw [Nat.add_comm] at h
  simp only [State.windowStatus, Geometry.isSet, bne_iff_ne.mpr set, state, range, Bool.true_eq_false, if_false]
  exact if_pos h

variable (small : r.base + r.size - 1 ≤ 2 ^ 40 - 1)
include small

theorem State.windowStatus_fits : s.windowStatus w =
    if (s.controlRange :: s.otherRanges w).any r.meets then some .overlap else none := by
  rw [Nat.add_comm] at small
  simp only [State.windowStatus, Geometry.isSet, bne_iff_ne.mpr set, state, range, Bool.true_eq_false, if_false]
  exact if_neg (Nat.not_lt.mpr small)

theorem State.windowStatus_overlap (h : ∃ z ∈ ⟨s.controlBase, 65536⟩ :: s.otherRanges w, r.meets z = true) :
    s.windowStatus w = some .overlap := by
  rw [State.windowStatus_fits set state range small]
  exact if_pos (List.any_eq_true.mpr h)

theorem State.windowStatus_apart (h : ∀ z ∈ ⟨s.controlBase, 65536⟩ :: s.otherRanges w, r.meets z = false) :
    s.windowStatus w = none := by
  rw [State.windowStatus_fits set state range small]
  refine if_neg fun met => ?_
  obtain ⟨z, hz, meets⟩ := List.any_eq_true.mp met
  exact Bool.eq_false_iff.mp (h z hz) meets

end

/-! ### The wait for the change (R157) -/

theorem Port.mem_partTransfers (p : Port) (t : Transfer) :
    t ∈ p.partTransfers ↔ ∃ c o, (p.client c).out = some o ∧ o.transfer = t := by
  simp only [Port.partTransfers, List.mem_filterMap, Option.map_eq_some_iff]
  constructor
  · rintro ⟨c, -, o, out, ht⟩
    exact ⟨c, o, out, ht⟩
  · rintro ⟨c, o, out, ht⟩
    exact ⟨c, Client.mem_after _ c, o, out, ht⟩

/-- No part-side transfer is addressed into the old range, and no buffered write into the new one. -/
theorem State.windowReady_iff (s : State) (w : WindowSetting) : s.windowReady w = true ↔
    (∀ r, s.oldRange w = some r → ∀ c o, (s.port.client c).out = some o → o.transfer.range.meets r = false) ∧
    (∀ r, w.range s.geometry = some r → ∀ x ∈ s.pwb, x.range.meets r = false) := by
  have transfers : ∀ r, s.port.partTransfers.all (fun t => !t.range.meets r) = true ↔
      ∀ c o, (s.port.client c).out = some o → o.transfer.range.meets r = false := by
    intro r
    simp only [List.all_eq_true, Bool.not_eq_true', Port.mem_partTransfers]
    exact ⟨fun h c o out => h _ ⟨c, o, out, rfl⟩, fun h _ ⟨c, o, out, ht⟩ => ht ▸ h c o out⟩
  unfold State.windowReady
  rw [Bool.and_eq_true]
  refine and_congr ?_ ?_
  · cases s.oldRange w with
    | none => exact ⟨fun _ => nofun, fun _ => rfl⟩
    | some r => exact (transfers r).trans ⟨fun h _ hr => Option.some.inj hr ▸ h, fun h => h r rfl⟩
  · cases w.range s.geometry with
    | none => exact ⟨fun _ => nofun, fun _ => rfl⟩
    | some r => exact (s.bufferClear_iff r).trans ⟨fun h _ hr => Option.some.inj hr ▸ h, fun h => h r rfl⟩

/-! ### The two rows (R156, R157) -/

section
variable {s : State} {q : QueueEntry} {w : WindowSetting}

theorem State.windowRule_badOperand (h : q.windowSetting = none) : s.windowRule q = s.endCommand .badOperand := by
  simp only [State.windowRule, h]

variable (setting : q.windowSetting = some w)
include setting

theorem State.windowRule_refused {status : Status} (h : s.windowStatus w = some status) : s.windowRule q = s.endCommand status := by
  simp only [State.windowRule, setting, h]

variable (taken : s.windowStatus w = none)
include taken

theorem State.windowRule_changes (ready : s.windowReady w = true) : s.windowRule q = s.changeWindow w := by
  simp only [State.windowRule, setting, taken, ready, if_true]

theorem State.windowRule_waits (busy : s.windowReady w = false) : s.windowRule q = s.setProgress (.setWindow w) := by
  simp only [State.windowRule, setting, taken, busy, Bool.false_eq_true, if_false]

end

/-- Settles O46: the checks in the order of the rule, the wait, and the settings and bytes of each window. -/
theorem windowSet : Obligations.WindowSet := by
  refine ⟨?_, ?_, State.windowReady_iff, ?_, ?_, ?_, fun w => ⟨fun _ => rfl, fun _ => rfl, fun _ => rfl, fun _ => rfl⟩,
    fun r q => ⟨Range.within_iff q r, Range.meets_iff⟩⟩
  · intro s m q hm heads
    have row : exec .setWindow s = .next (m.windowRule q).settle := State.command_at hm heads
    rw [row]
    refine ⟨fun none => by rw [State.windowRule_badOperand none], fun w setting => ⟨fun unset => ?_, fun set => ⟨fun held => ?_, ?_⟩⟩⟩
    · rw [State.windowRule_refused setting (State.windowStatus_notReady unset)]
    · rw [State.windowRule_refused setting (State.windowStatus_badState set (State.windowStateOk_false held))]
    · intro stack pilot
      have state := State.windowStateOk_true stack pilot
      refine ⟨fun r range large => ?_, fun r range small met => ?_, fun fits => ?_⟩
      · rw [State.windowRule_refused setting (State.windowStatus_tooSmall set state range large)]
      · rw [State.windowRule_refused setting (State.windowStatus_overlap set state range small met)]
      · have taken : m.windowStatus w = none := by
          cases range : w.range m.geometry with
          | none => exact State.windowStatus_off set state range
          | some r =>
            obtain ⟨small, apart⟩ := fits r range
            exact State.windowStatus_apart set state range small apart
        refine ⟨fun ready => ?_, fun busy => ?_⟩
        · rw [State.windowRule_changes setting taken ready]
          rfl
        · rw [State.windowRule_waits setting taken busy]
          rfl
  · intro s m w hm progress ready
    have due : m.windowChangeDue = true := by simp only [State.windowChangeDue, progress, ready]
    have changed : m.makeWindowChange = m.changeWindow w := by simp only [State.makeWindowChange, progress]
    have row : exec .windowChange s = .next m.makeWindowChange.settle := State.event_at hm due
    rw [row, changed]
    rfl
  · intro q base count limit hbase hcount hlimit
    have hbase : q.wide 2 = base := hbase.symm
    have hlimit : q.wide 4 = limit := hlimit.symm
    refine ⟨QueueEntry.windowSetting_unknown, fun raw => ?_, fun stack => ?_, fun scratch => ?_, fun pilot => ?_⟩
    · rw [QueueEntry.windowSetting_raw raw, hbase, ← hcount]
      refine ⟨fun off => if_pos off, fun on bad => ?_, fun below aligned low high => ?_⟩
      · rw [if_neg on]
        split_ifs <;> first | rfl | omega
      · rw [if_neg (by omega), if_pos ⟨below, aligned, low, high⟩]
        exact ⟨fun tap => if_pos tap, fun absorb => by rw [absorb]; rfl⟩
    · rw [QueueEntry.windowSetting_stack stack, hbase, ← hcount]
      refine ⟨fun off => if_pos off, fun on bad => ?_, fun below aligned low high => ?_⟩
      · rw [if_neg on, if_neg (by omega)]
      · rw [if_neg (by omega), if_pos ⟨below, aligned, high⟩]
    · rw [QueueEntry.windowSetting_scratch scratch, hbase, ← hcount]
      refine ⟨fun off => if_pos off, fun on bad => ?_, fun below aligned areas => ?_⟩
      · rw [if_neg on, if_neg (by omega)]
      · rw [if_neg (by omega), if_pos ⟨below, aligned, areas⟩]
    · rw [QueueEntry.windowSetting_pilot pilot, hbase, hlimit]
      refine ⟨fun off => if_pos off, fun on bad => ?_, fun on aligned below ends => ?_⟩
      · rw [if_neg (by omega), if_neg (by omega)]
      · rw [if_neg (by omega), if_pos ⟨by omega, aligned, below, ends⟩]
  · intro g table htable
    subst htable
    refine ⟨fun _ => rfl, fun _ => rfl, fun _ => rfl, fun _ => rfl, fun w hw => ?_⟩
    simp only [List.mem_cons, List.not_mem_nil, or_false] at hw
    obtain rfl | rfl | rfl | rfl := hw <;> rfl
  · intro s ranges hranges
    simp only [hranges, filterMap_range_three]
    exact ⟨fun _ => ⟨rfl, rfl⟩, fun _ => ⟨rfl, rfl⟩, fun _ => ⟨rfl, rfl⟩, fun _ => ⟨rfl, rfl⟩⟩

end Sys2Proof.Machine
end

section
/-! PROOFS. Reads of stack slots that the Deferred Read Queue answers (R103 to R105), and the answers to its fetches (R108 to R110). -/

namespace Sys2Proof.Machine

/-! ### A read of a slot that is not yet SEALED (R104) -/

/-- The lowest entry that is not in use. -/
theorem findIdx?_isNone_some {α : Type} {l : List (Option α)} {k : Nat} (free : l[k]? = some none)
    (lowest : ∀ j < k, l[j]? ≠ some none) : l.findIdx? Option.isNone = some k := by
  obtain ⟨hk, at_k⟩ := List.getElem?_eq_some_iff.mp free
  refine List.findIdx?_eq_some_iff_getElem.mpr ⟨hk, by rw [at_k]; rfl, fun j hj isNone => lowest j hj ?_⟩
  rw [List.getElem?_eq_getElem (Nat.lt_trans hj hk), Option.isNone_iff_eq_none.mp isNone]

theorem findIdx?_isNone_none {α : Type} {l : List (Option α)} (full : none ∉ l) : l.findIdx? Option.isNone = none :=
  List.findIdx?_eq_none_iff.mpr fun _ mem =>
    Option.isNone_eq_false_iff.mpr (Option.isSome_iff_ne_none.mpr fun unused => full (unused ▸ mem))

section
variable {s : State} {q : Requester} {a n slot k : Nat} {e : DrqEntry}

theorem State.deferRead_repeats (found : s.drqFind q a n = some (k, e)) : s.deferRead q a n slot = (.defer, s.reloadDrq k e) := by
  simp only [State.deferRead, found]

theorem State.deferRead_takes (new : s.drqFind q a n = none) (free : s.drq.entries[k]? = some none)
    (lowest : ∀ j < k, s.drq.entries[j]? ≠ some none) :
    s.deferRead q a n slot = (.defer, s.setDrq k (some ⟨q, a, n, slot, .waiting, [], s.drq.period⟩)) := by
  simp only [State.deferRead, new, findIdx?_isNone_some free lowest]

theorem State.deferRead_full (new : s.drqFind q a n = none) (full : none ∉ s.drq.entries) :
    s.deferRead q a n slot = (.retry, s) := by
  simp only [State.deferRead, new, findIdx?_isNone_none full]

/-! ### A read of a SEALED slot (R105) -/

/-- A fetch that has been answered answers its read and leaves the queue. -/
theorem State.sealedRead_ends (found : s.drqFind q a n = some (k, e)) (ends : e.state = .ready ∨ e.state = .faulted) :
    s.sealedRead q a n = some (if e.state = .ready then .data e.buffer else .abort, s.freeDrq k) := by
  obtain ready | faulted := ends
  · simp [State.sealedRead, found, ready]
  · simp [State.sealedRead, found, faulted]

theorem State.sealedRead_waits (found : s.drqFind q a n = some (k, e)) (fetching : e.state = .fetching) :
    s.sealedRead q a n = some (.defer, s.reloadDrq k e) := by
  simp only [State.sealedRead, found, fetching]

/-! ### The Window Decoder's choice (R126) -/

theorem State.readTransaction_wellFormed (formed : malformed a n = none) : s.readTransaction q a n = s.decideRead q a n := by
  simp only [State.readTransaction, formed]

variable (region : s.region a = .stack) (lies : s.stackSlotAt a = some slot)
include region lies

theorem State.decideRead_unsealed
    (state : (s.slotEntry slot).state = .opened ∨ (s.slotEntry slot).state = .complete ∨ (s.slotEntry slot).state = .sealing) :
    s.decideRead q a n = State.answeredRead (s.deferRead q a n slot) := by
  unfold State.decideRead
  obtain opened | complete | sealing := state
  · simp [lies, region, opened]
  · simp [lies, region, complete]
  · simp [lies, region, sealing]

theorem State.decideRead_sealed {r : UpstreamAnswer × State} (state : (s.slotEntry slot).state = .sealed)
    (answers : s.sealedRead q a n = some r) : s.decideRead q a n = State.answeredRead r := by
  simp [State.decideRead, lies, region, state, answers]

end

/-- Settles O20: the decoder hands the read to the queue, which answers by the entry that holds it, or by its lowest free one. -/
theorem stackSlotRead : Obligations.StackSlotRead := by
  intro s f q a n slot k e hf held formed region lies
  have row : exec (.upstreamRead q a n) s = .next (f.decideRead q a.toNat n).settle := by
    rw [State.readRow_at hf held, State.readTransaction_wellFormed formed]
  rw [row]
  refine ⟨fun unsealed => ?_, fun isSealed found => ?_⟩
  · rw [State.decideRead_unsealed region lies unsealed]
    refine ⟨fun found => ?_, fun new free lowest => ?_, fun new full => ?_⟩
    · rw [State.deferRead_repeats found]
      rfl
    · rw [State.deferRead_takes new free lowest]
      rfl
    · rw [State.deferRead_full new full]
      rfl
  · refine ⟨fun ends => ?_, fun fetching => ?_⟩
    · rw [State.decideRead_sealed region lies isSealed (State.sealedRead_ends found ends)]
      rfl
    · rw [State.decideRead_sealed region lies isSealed (State.sealedRead_waits found fetching)]
      rfl

/-! ### The answer to a fetch (R108 to R110) -/

/-- The DRQ fetch acts on the answer to its transfer. -/
theorem State.fetchAnswer_at {s m : State} {o : Outstanding} (hm : m = s.caughtUp) (ho : m.awaits .drqFetch o) (a : DramAnswer) :
    exec (.drqFetchAnswer a) s = .next (State.settle
      ((m.answeredFor .drqFetch o a).fetchAnswered (answerOk a) (m.memory.answerWords o.transfer a))) := by
  have answered : m.attemptAnswered a = (m.answeredFor .drqFetch o a).fetchAnswered _ _ := State.attemptAnswered_client ho a
  rw [← answered]
  exact State.laterEvent_at hm ho.clientDue

/-- The queue once the fetch of an entry has been answered: the entry is `e`, and no fetch of it is due. -/
def Drq.fetched (d : Drq) (i : Nat) (e : DrqEntry) : Drq :=
  { d with entries := d.entries.set i (some e), fetchOrder := d.fetchOrder.filter (· != i) }

section
variable {s x : State} (hx : x = { s with port := { s.port with fetchFor := none } })
include hx

/-- An entry freed meanwhile gets no answer (R110). -/
theorem State.fetchAnswered_discarded (freed : s.port.fetchFor = none) (ok : Bool) (words : List Word) :
    s.fetchAnswered ok words = x := by
  simp only [State.fetchAnswered, freed, hx]

variable {i : Nat} {e : DrqEntry} (target : s.port.fetchFor = some i) (entry : s.drq.entries[i]? = some (some e))
  (fetching : e.state = .fetching)
include target entry fetching

theorem State.fetchAnswered_ok (words : List Word) : s.fetchAnswered true words = { x with
    drq := s.drq.fetched i { e with state := .ready, buffer := words, countdown := s.drq.period } } := by
  simp only [State.fetchAnswered, target, (State.drqEntry_eq_some s i e).mpr entry, fetching, if_true, hx]
  rfl

theorem State.fetchAnswered_fault (words : List Word) : s.fetchAnswered false words = State.submit { x with
    drq := s.drq.fetched i { e with state := .faulted, buffer := [], countdown := s.drq.period } }
    .partFault e.address (some e.requester) 11 := by
  simp only [State.fetchAnswered, target, (State.drqEntry_eq_some s i e).mpr entry, fetching, if_true, hx]
  rfl

end

/-- Settles O36: an answer for an entry freed meanwhile, and each answer for one still FETCHING. -/
theorem fetchAnswered : Obligations.FetchAnswered := by
  intro s m x o a hm ho hx
  rw [State.fetchAnswer_at hm ho a]
  refine ⟨fun freed => ?_, fun i e drq target entry fetching hdrq => ⟨?_, ?_⟩⟩
  · rw [State.fetchAnswered_discarded hx freed]
  · rintro rfl
    rw [answerOk, State.fetchAnswered_ok hx target entry fetching, hdrq]
    rfl
  · rintro landed rfl
    rw [answerOk, State.fetchAnswered_fault hx target entry fetching, hdrq]
    rfl

end Sys2Proof.Machine
end

section
/-! PROOFS. The answers to the forwarding side's transfers: the held read and the delivery at the head of the buffer (R106, R128 to R130,
R132). -/

namespace Sys2Proof.Machine

/-- The state in which the source acts on the answer: what the attempt leaves in memory, and the forwarding side free. -/
def State.forwardFree (s : State) (o : Outstanding) (a : DramAnswer) : State :=
  { s with memory := s.memory.attempt o.transfer a, port := { s.port with forward := none, attempt := none } }

/-- The source whose transfer is at the DRAM acts on the answer with its side free (R138, R145). -/
theorem State.forwardAnswer_at {s m : State} {source : ForwardSource} {o : Outstanding} (hm : m = s.caughtUp)
    (attempt : m.port.attempt = some .forwarding) (forward : m.port.forward = some (source, o)) (a : DramAnswer) :
    State.laterEvent (State.forwardDue source) (State.attemptAnswered a) s = .next (State.settle
      ((m.forwardFree o a).forwardAnswered source (answerOk a) (m.memory.answerWords o.transfer a))) := by
  have answered : m.attemptAnswered a = (m.forwardFree o a).forwardAnswered source (answerOk a) (m.memory.answerWords o.transfer a) := by
    simp only [State.attemptAnswered, State.forwardAttempt, attempt, forward]
    rfl
  rw [← answered]
  exact State.laterEvent_at hm (by simp [State.forwardDue, attempt, forward])

/-! ### The pass-through read (R106, R132) -/

/-- Words of a slot that is neither FREE nor SEALED are held back. -/
theorem State.lookAgain_iff (s : State) (a : Nat) : s.lookAgain a = true ↔ s.slotStateAt a = .free ∨ s.slotStateAt a = .sealed := by
  unfold State.lookAgain
  cases s.slotStateAt a <;> simp

theorem State.readAnswered_held {s : State} {h : HeldRead} (held : s.held = some h) (ok : Bool) (words : List Word) :
    s.readAnswered ok words = { s with
      held := none
      answer := some (if ok = false then .abort else if s.slotStateAt h.address = .free ∨ s.slotStateAt h.address = .sealed
        then .data words else .retry) } := by
  simp only [State.readAnswered, held, State.lookAgain_iff]
  split_ifs <;> rfl

/-! ### The delivery (R128, R129) -/

section
variable {s : State} {w : PwbEntry} {rest : List PwbEntry} (pwb : s.pwb = w :: rest)
include pwb

theorem State.deliveryAnswered_ok : s.deliveryAnswered true = s.popWrite rest := by
  simp only [State.deliveryAnswered, pwb, if_true]

theorem State.deliveryAnswered_fault : s.deliveryAnswered false =
    (s.popWrite rest).submit .forwardFault w.address (some w.requester) w.data.length := by
  simp [State.deliveryAnswered, pwb]

end

/-- Settles O21: the held read is answered and releases the port, and the head of the buffer leaves it. -/
theorem forwardingAnswers : Obligations.ForwardingAnswers := by
  refine ⟨?_, ?_⟩
  · intro s m o h a n x hm attempt forward transfer held
    have row : exec (.passThroughReadAnswer x) s = .next (State.settle ((m.forwardFree o x).readAnswered _ _)) :=
      State.forwardAnswer_at hm attempt forward x
    have kept : (m.forwardFree o x).held = some h := held
    rw [row, State.readAnswered_held kept, transfer, State.forwardFree, transfer]
    cases x with
    | ok => rfl
    | fault landed => rfl
  · intro s m o a data w rest landed hm attempt forward transfer pwb
    have row (x : DramAnswer) : exec (.pwbDeliveryAnswer x) s = .next (State.settle ((m.forwardFree o x).deliveryAnswered (answerOk x))) :=
      State.forwardAnswer_at hm attempt forward x
    have kept (x : DramAnswer) : (m.forwardFree o x).pwb = w :: rest := pwb
    refine ⟨?_, ?_⟩
    · rw [row, answerOk, State.deliveryAnswered_ok (kept _), State.forwardFree, transfer]
      rfl
    · rw [row, answerOk, State.deliveryAnswered_fault (kept _), State.forwardFree, transfer]
      rfl

end Sys2Proof.Machine
end

section
/-! PROOFS. Memory and the Posted Write Buffer (R118, R127, R128, R137, R144, R147): what each row makes of them, the words that a write
leaves in memory, and the invariants that every step keeps. -/

namespace Sys2Proof.Machine

/-! ### The words of memory (R137) -/

/-- A write of consecutive words leaves every other word alone. -/
theorem Memory.read_writeWords_other : ∀ (ws : List Word) (m : Memory) (a b : Nat), m.wf → (∀ i < ws.length, b ≠ a + 4 * i) →
    (m.writeWords a ws).read b = m.read b
  | [], _, _, _, _, _ => rfl
  | w :: ws, m, a, b, hm, apart => by
    have rest : ∀ i < ws.length, b ≠ a + 4 + 4 * i := fun i hi => by
      have next := apart (i + 1) (Nat.succ_lt_succ hi)
      omega
    have first : b ≠ a := apart 0 (Nat.succ_pos _)
    calc (m.writeWords a (w :: ws)).read b = (Memory.write m a w).read b :=
          Memory.read_writeWords_other ws _ _ b (Memory.write_wf m a w hm) rest
      _ = m.read b := by rw [Memory.read_write m a b w hm, if_neg first]

/-- The words written are read back. -/
theorem Memory.readWords_writeWords : ∀ (ws : List Word) (m : Memory) (a : Nat), m.wf →
    (m.writeWords a ws).readWords a ws.length = ws
  | [], _, _, _ => rfl
  | w :: ws, m, a, hm => by
    have written := Memory.write_wf m a w hm
    have first : (m.writeWords a (w :: ws)).read a = w := by
      have kept := Memory.read_writeWords_other ws (Memory.write m a w) (a + 4) a written (fun i _ => by omega)
      exact kept.trans (by rw [Memory.read_write m a a w hm, if_pos rfl])
    have rest := Memory.readWords_writeWords ws (Memory.write m a w) (a + 4) written
    have shift : ∀ i, a + 4 * (i + 1) = a + 4 + 4 * i := fun i => by omega
    unfold Memory.readWords at rest ⊢
    rw [List.length_cons, List.range_succ_eq_map, List.map_cons, List.map_map]
    refine congrArg₂ List.cons first (Eq.trans (List.map_congr_left fun i _ => ?_) rest)
    exact congrArg _ (shift i)

/-- After a failed write a word reads as before, unless it is one that landed (R137). -/
theorem Memory.read_writeLanded : ∀ (ws : List Word) (landed : List Bool) (m : Memory) (a b : Nat), m.wf →
    (m.writeLanded a ws landed).read b = m.read b ∨
      ∃ k, landed[k]? = some true ∧ b = a + 4 * k ∧ ws[k]? = some ((m.writeLanded a ws landed).read b)
  | [], _, _, _, _, _ => by simp [Memory.writeLanded]
  | _ :: _, [], _, _, _, _ => by simp [Memory.writeLanded]
  | w :: ws, l :: ls, m, a, b, hm => by
    have first_wf : (if l then Memory.write m a w else m).wf := by
      split
      · exact Memory.write_wf m a w hm
      · exact hm
    obtain kept | ⟨k, lands, place, word⟩ := Memory.read_writeLanded ws ls _ (a + 4) b first_wf
    · cases l with
      | false => exact .inl kept
      | true =>
        rw [if_pos rfl, Memory.read_write m a b w hm] at kept
        by_cases first : b = a
        · exact .inr ⟨0, rfl, first, by rw [if_pos first] at kept; exact congrArg some kept.symm⟩
        · exact .inl (kept.trans (if_neg first))
    · exact .inr ⟨k + 1, lands, by omega, word⟩

/-- A FAULT with no word landed leaves memory as it was (R144). -/
theorem Memory.attempt_fault_nil (m : Memory) (t : Transfer) : m.attempt t (.fault []) = m := by
  cases t with
  | read a n => rfl
  | write a data => cases data <;> rfl

/-! ### Memory and the buffer under the operations -/

/-- Memory and the Posted Write Buffer. -/
def State.store (s : State) := (s.memory, s.pwb)

theorem State.store_of_outside {s t : State} (h : t.outside = s.outside) : t.store = s.store := by
  simp only [State.outside, Prod.mk.injEq] at h
  obtain ⟨memory, -, -, pwb, -⟩ := h
  exact Prod.ext memory pwb

theorem State.store_of_base {s t : State} (h : t.base = s.base) : t.store = s.store := State.store_of_outside (State.outside_of_base h)

theorem State.store_iff {s t : State} : t.store = s.store ↔ t.memory = s.memory ∧ t.pwb = s.pwb := Prod.ext_iff

theorem State.caughtUp_store (s : State) : s.caughtUp.store = s.store := State.store_of_outside s.caughtUp_outside

theorem State.clientAnswered_base (s : State) (c : Client) (ok : Bool) (words : List Word) :
    (s.clientAnswered c ok words).base = s.base := by
  cases c with
  | engine => exact State.engineAnswered_base s ok words
  | stackUnit => exact State.stackAnswered_base s ok words
  | pilotUnit => exact State.checkAnswered_base s ok words
  | drqFetch => exact State.fetchAnswered_base s ok words
  | reportUnit => exact State.reportAnswered_base s ok

/-- A source that acts on its answer leaves memory alone, and takes at most the first write out of the buffer (R128). -/
theorem State.forwardAnswered_store (s : State) (source : ForwardSource) (ok : Bool) (words : List Word) :
    (s.forwardAnswered source ok words).memory = s.memory ∧ (s.forwardAnswered source ok words).pwb <:+ s.pwb := by
  cases source with
  | delivery =>
    simp only [State.forwardAnswered, State.deliveryAnswered]
    split
    · exact ⟨rfl, List.suffix_refl _⟩
    · rename_i w rest pwb
      rw [pwb]
      split <;> exact ⟨rfl, List.suffix_cons w rest⟩
  | passThroughRead =>
    simp only [State.forwardAnswered, State.readAnswered]
    repeat' split
    all_goals exact ⟨rfl, List.suffix_refl _⟩

/-- A client's answer leaves in memory what the attempt leaves there, and the buffer as it was (R145, R146). -/
theorem State.partAttempt_store {s : State} {c : Client} {o : Outstanding} (out : (s.port.client c).out = some o) (a : DramAnswer) :
    (s.partAttempt a c).memory = s.memory.attempt o.transfer a ∧ (s.partAttempt a c).pwb = s.pwb := by
  simp only [State.partAttempt, out]
  split
  · exact State.store_iff.mp (State.store_of_base (State.discardedAnswer_base _ c))
  · exact State.store_iff.mp (State.store_of_base (State.clientAnswered_base _ c _ _))

/-- An answered attempt leaves in memory what the answer makes of the transfer at the DRAM, and takes at most the first write out of the
buffer (R128, R137, R145). -/
theorem State.attemptAnswered_store (a : DramAnswer) (s : State) :
    ((s.attemptAnswered a).memory = match s.port.attempt.bind s.port.atDram with
      | none => s.memory
      | some o => s.memory.attempt o.transfer a) ∧ (s.attemptAnswered a).pwb <:+ s.pwb := by
  unfold State.attemptAnswered
  cases attempt : s.port.attempt with
  | none => exact ⟨rfl, List.suffix_refl _⟩
  | some side =>
    cases side with
    | forwarding =>
      cases forward : s.port.forward with
      | none => simp [State.forwardAttempt, Port.atDram, forward]
      | some x =>
        simp only [State.forwardAttempt, Port.atDram, forward, Option.bind_some, Option.map_some]
        exact State.forwardAnswered_store _ _ _ _
    | part =>
      cases current : s.port.current with
      | none => simp [Port.atDram, current]
      | some c =>
        cases out : (s.port.client c).out with
        | none => simp [State.partAttempt, Port.atDram, current, out]
        | some o =>
          obtain ⟨memory, pwb⟩ := State.partAttempt_store out a
          simp [Port.atDram, current, out, memory, pwb]

/-- An attempt answered BUSY leaves memory alone (R144). -/
theorem State.attemptBusy_store (s : State) : s.attemptBusy.memory = s.memory ∧ s.attemptBusy.pwb <:+ s.pwb := by
  unfold State.attemptBusy
  repeat' split
  · exact ⟨rfl, List.suffix_refl _⟩
  · exact ⟨rfl, List.suffix_refl _⟩
  · obtain ⟨memory, pwb⟩ := State.attemptAnswered_store (.fault []) s
    refine ⟨memory.trans ?_, pwb⟩
    split
    · rfl
    · exact Memory.attempt_fault_nil _ _

/-- The DRAM has finished with the attempt that a line reset left (R147). -/
theorem State.abandonedFinished_store (landed : List Bool) (s : State) :
    ((s.abandonedFinished landed).memory = match s.port.abandoned with
      | none => s.memory
      | some x => s.memory.attempt x (.fault landed)) ∧ (s.abandonedFinished landed).pwb = s.pwb := by
  unfold State.abandonedFinished
  cases s.port.abandoned <;> exact ⟨rfl, rfl⟩

/-- The blocks that own the words of a write take them and leave memory and the buffer alone (R123). -/
theorem State.takeWrite_base (s : State) (q : Requester) (a : Nat) (data : List Word) : (s.takeWrite q a data).base = s.base := by
  unfold State.takeWrite
  repeat' split
  all_goals simp

/-- A write transaction leaves memory alone, and puts at most itself in the buffer: well-formed, and where there is a place (R118, R121,
R127). -/
theorem State.decideWrite_store (s : State) (q : Requester) (a : Nat) (data : List Word) :
    (s.decideWrite q a data).memory = s.memory ∧ ((s.decideWrite q a data).pwb = s.pwb ∨
      (s.decideWrite q a data).pwb = s.pwb ++ [⟨q, a, data⟩] ∧ s.pwb.length < 32 ∧ malformed a data.length = none) := by
  unfold State.decideWrite
  split
  · exact ⟨rfl, .inl rfl⟩
  · rename_i formed
    split
    · exact ⟨rfl, .inl rfl⟩
    · split
      · rename_i room
        obtain ⟨memory, pwb⟩ := State.store_iff.mp (State.store_of_base (State.takeWrite_base (s.forward q a data) q a data))
        rw [State.giveAnswer_memory, State.giveAnswer_pwb, memory, pwb]
        unfold State.forward
        split
        · rename_i forwards
          exact ⟨rfl, .inr ⟨rfl, ((State.hasRoomFor_iff s q a data).mp room).1 forwards, formed⟩⟩
        · exact ⟨rfl, .inl rfl⟩
      · exact ⟨rfl, .inl rfl⟩

theorem State.readTransaction_store (s : State) (q : Requester) (a n : Nat) : (s.readTransaction q a n).store = s.store := by
  have hold : (s.holdRead q a n).store = s.store := by
    unfold State.holdRead
    simp only
    split <;> rfl
  have deferred : ∀ i, (State.answeredRead (s.deferRead q a n i)).store = s.store := fun i => by
    obtain ⟨memory, pwb⟩ := State.store_iff.mp (State.store_of_base (State.deferRead_base s q a n i))
    exact State.store_iff.mpr ⟨memory, pwb⟩
  unfold State.readTransaction State.decideRead
  repeat' split
  · rfl
  · exact hold
  · exact hold
  · exact hold
  · exact hold
  · rename_i r answered
    obtain ⟨base, -⟩ := State.sealedRead_base s q a n r answered
    exact (State.store_of_base base : r.2.store = s.store)
  all_goals exact deferred _

theorem State.issueRead_store (s : State) : s.issueRead.store = s.store := by
  unfold State.issueRead
  split <;> rfl

theorem State.pulse_base (s : State) : s.pulse.base = s.base := by
  refine (State.foldl_base _ State.countDown_base _ _).trans ?_
  unfold State.tickStall
  repeat' split
  · rfl
  · exact State.stallExpire_base s
  · rfl

/-! ### Every row -/

/-- An event whose effect leaves memory and the buffer alone leaves them alone. -/
theorem State.event_store {due : State → Bool} {effect : State → State} (h : ∀ m : State, (effect m).store = m.store) {s t : State}
    (ht : State.event due effect s = .next t) : t.store = s.store := by
  obtain rfl | ⟨-, rfl⟩ := State.event_next ht
  · rfl
  · exact h s.settle

/-- The same for an event that what is due at once comes before. -/
theorem State.laterEvent_store {due : State → Bool} {effect : State → State} (h : ∀ m : State, (effect m).store = m.store)
    {s t : State} (ht : State.laterEvent due effect s = .next t) : t.store = s.store := by
  obtain rfl | ⟨-, rfl⟩ := State.laterEvent_next ht
  · rfl
  · exact (h s.caughtUp).trans s.caughtUp_store

theorem State.beginCommand_store (k : CommandKind) (s : State) : (s.beginCommand k k.rule).store = s.store := by
  unfold State.beginCommand
  repeat' split
  · rfl
  · exact State.store_of_outside (CommandKind.rule_outside k _ s)
  · exact State.store_of_base (State.endCommand_base _ _ _)

theorem State.makeWindowChange_store (s : State) : s.makeWindowChange.store = s.store := by
  unfold State.makeWindowChange
  split
  · exact State.store_of_outside (State.changeWindow_outside s _)
  · rfl

/-- The rows due at once leave memory and the buffer alone. -/
theorem exec_atOnce_store {i : Instr} {s t : State} (atOnce : i.atOnce = true) (h : exec i s = .next t) : t.store = s.store := by
  obtain rfl | rfl | rfl | ⟨k, rfl⟩ := Instr.atOnce_cases atOnce
  · exact State.event_store (fun m => State.store_of_base (State.endCommand_base m _ _)) h
  · exact State.event_store (fun m => State.store_of_base (State.makeSlotClaim_base m)) h
  · exact State.event_store State.makeWindowChange_store h
  · rw [CommandKind.exec_row] at h
    exact State.event_store (State.beginCommand_store k) h

/-- The rows in which memory or the buffer may change. -/
inductive Storing : Instr → Prop
  | reset (b : BitVec 4) : Storing (.lineReset b)
  | write {i : Instr} {q : Requester} {a : Address} {data : List Word} (h : i ∈ writeRows q a data) : Storing i
  | answer {i : Instr} {a : DramAnswer} (h : i ∈ answerRows a) : Storing i
  | busy : Storing .attemptBusy
  | finished (landed : List Bool) : Storing (.abandonedAttemptFinished landed)

/-- Every other row leaves both alone. -/
theorem exec_store {i : Instr} {s t : State} (h : exec i s = .next t) : Storing i ∨ t.store = s.store := by
  have later {due : State → Bool} {effect : State → State} (keeps : ∀ m : State, (effect m).base = m.base)
      (ht : State.laterEvent due effect s = .next t) : Storing i ∨ t.store = s.store :=
    .inr (State.laterEvent_store (fun m => State.store_of_base (keeps m)) ht)
  have answers {a : DramAnswer} (hi : i ∈ answerRows a) : Storing i ∨ t.store = s.store := .inl (.answer hi)
  have writes {q : Requester} {a : Address} {data : List Word} (hi : i ∈ writeRows q a data) : Storing i ∨ t.store = s.store :=
    .inl (.write hi)
  cases i with
  | lineReset b => exact .inl (.reset b)
  | tick => exact later (due := fun _ => true) State.pulse_base h
  | stallTimerExpiry => exact later State.pulse_base h
  | discardCountdownExpiry e => exact later State.pulse_base h
  | upstreamWrite q a data => exact writes (q := q) (a := a) (data := data) (by simp [writeRows])
  | rawWindowWrite q a data => exact writes (q := q) (a := a) (data := data) (by simp [writeRows])
  | consumerIndexWrite q a data => exact writes (q := q) (a := a) (data := data) (by simp [writeRows])
  | upstreamRead q a n => exact .inr (State.laterEvent_store (fun m => State.readTransaction_store m q _ n) h)
  | passThroughReadIssue => exact .inr (State.laterEvent_store State.issueRead_store h)
  | attemptBusy => exact .inl .busy
  | clearSweep => exact later State.takeClear_base h
  | processScan => exact later State.takeProcess_base h
  | clearSlot => exact later State.takeClearSlot_base h
  | fold => exact later State.takeFold_base h
  | pilotCheckStart => exact later State.startCheck_base h
  | busyWriteHanded => exact later State.handBusyWrite_base h
  | engineResetScanAssembler => exact later State.resetScans_base h
  | engineResetDone => exact later State.resetDone_base h
  | abandonedAttemptFinished landed => exact .inl (.finished landed)
  | passThroughReadAnswer a | pwbDeliveryAnswer a | engineTransferAnswer a | stackUnitTransferAnswer a | drqFetchAnswer a
  | pilotCheckReadAnswer a | reportWriteAnswer a | producerWriteAnswer a | mirrorWriteAnswer a | commandSlotWriteAnswer a =>
    exact answers (a := a) (by simp [answerRows])
  | badKindCommand | setGeometry | setWindow | windowChange | setTimers | readState | engineReset | noticeSweep | cancelSweep
  | readSweep | definePilot | removePilot | muteChannel | unmuteChannel | readChannel | openSourcePoint | slotClaim
  | closeSourcePoint | releaseStack | setArbiter | setMode | setReports => exact .inr (exec_atOnce_store rfl h)
  -- The one row left is SEAL, whose name as a case is a keyword of Lean.
  | _ => exact later State.takeSeal_base h

/-- The rows of the DRAM's answers are one event, each with its own condition. -/
theorem exec_answer {i : Instr} {a : DramAnswer} (hi : i ∈ answerRows a) (s : State) :
    exec i s = State.laterEvent i.due (State.attemptAnswered a) s := by
  simp only [answerRows, List.mem_cons, List.not_mem_nil, or_false] at hi
  obtain rfl | rfl | rfl | rfl | rfl | rfl | rfl | rfl | rfl | rfl := hi <;> rfl

/-- The rows of a write transaction are one event. -/
theorem exec_write {i : Instr} {q : Requester} {a : Address} {data : List Word} (hi : i ∈ writeRows q a data) (s : State) :
    exec i s = State.laterEvent State.portFree (State.decideWrite q a.toNat data) s := by
  simp only [writeRows, List.mem_cons, List.not_mem_nil, or_false] at hi
  obtain rfl | rfl | rfl := hi <;> rfl

/-! ### The invariants (R118, R127, R137) -/

theorem State.bufferOk_of_suffix {s t : State} (h : t.pwb <:+ s.pwb) (ok : s.bufferOk) : t.bufferOk :=
  ⟨h.length_le.trans ok.1, fun w hw => ok.2 w (h.subset hw)⟩

theorem State.bufferOk_append {s t : State} {w : PwbEntry} (h : t.pwb = s.pwb ++ [w]) (place : s.pwb.length < 32)
    (formed : malformed w.address w.data.length = none) (ok : s.bufferOk) : t.bufferOk := by
  unfold State.bufferOk
  rw [h]
  refine ⟨by simpa using place, fun v hv => ?_⟩
  obtain old | new := List.mem_append.mp hv
  · exact ok.2 v old
  · rw [List.mem_singleton.mp new]
    exact formed

/-- What an operation from `s` to `t` keeps: the canonical form of memory, and the bounds of the buffer. -/
def State.keepsStore (s t : State) : Prop := (s.memoryOk → t.memoryOk) ∧ (s.bufferOk → t.bufferOk)

namespace State.keepsStore

theorem refl (s : State) : s.keepsStore s := ⟨id, id⟩

/-- Memory as it was and a buffer that has lost its first writes at most. -/
theorem of_suffix {s t : State} (memory : t.memory = s.memory) (pwb : t.pwb <:+ s.pwb) : s.keepsStore t :=
  ⟨fun ok => (congrArg Memory.wf memory).mpr ok, State.bufferOk_of_suffix pwb⟩

theorem of_store {s t : State} (h : t.store = s.store) : s.keepsStore t := by
  obtain ⟨memory, pwb⟩ := State.store_iff.mp h
  exact of_suffix memory (pwb ▸ List.suffix_refl _)

/-- An event whose effect keeps both, after what is due at once. -/
theorem of_laterEvent {due : State → Bool} {effect : State → State} (h : ∀ m : State, m.keepsStore (effect m)) {s t : State}
    (ht : State.laterEvent due effect s = .next t) : s.keepsStore t := by
  obtain rfl | ⟨-, rfl⟩ := State.laterEvent_next ht
  · exact .refl _
  · obtain ⟨memory, buffer⟩ := of_store s.caughtUp_store
    obtain ⟨memory', buffer'⟩ := h s.caughtUp
    exact ⟨memory' ∘ memory, buffer' ∘ buffer⟩

end State.keepsStore

theorem State.decideWrite_keepsStore (s : State) (q : Requester) (a : Nat) (data : List Word) :
    s.keepsStore (s.decideWrite q a data) := by
  obtain ⟨memory, pwb | ⟨pwb, place, formed⟩⟩ := State.decideWrite_store s q a data
  · exact .of_suffix memory (pwb ▸ List.suffix_refl _)
  · exact ⟨fun ok => (congrArg Memory.wf memory).mpr ok, State.bufferOk_append pwb place formed⟩

theorem State.attemptAnswered_keepsStore (a : DramAnswer) (s : State) : s.keepsStore (s.attemptAnswered a) := by
  obtain ⟨memory, pwb⟩ := State.attemptAnswered_store a s
  refine ⟨fun ok => (congrArg Memory.wf memory).mpr ?_, State.bufferOk_of_suffix pwb⟩
  split
  · exact ok
  · exact Memory.attempt_wf _ _ _ ok

theorem State.abandonedFinished_keepsStore (landed : List Bool) (s : State) : s.keepsStore (s.abandonedFinished landed) := by
  obtain ⟨memory, pwb⟩ := State.abandonedFinished_store landed s
  refine ⟨fun ok => (congrArg Memory.wf memory).mpr ?_, State.bufferOk_of_suffix (pwb ▸ List.suffix_refl _)⟩
  split
  · exact ok
  · exact Memory.attempt_wf _ _ _ ok

/-- Every row keeps both. -/
theorem exec_keepsStore {i : Instr} {s t : State} (h : exec i s = .next t) : s.keepsStore t := by
  obtain storing | store := exec_store h
  · cases storing with
    | reset b =>
      obtain rfl := Host.Outcome.next.inj h
      exact .of_suffix rfl List.nil_suffix
    | write hi =>
      rw [exec_write hi] at h
      exact .of_laterEvent (fun m => State.decideWrite_keepsStore m _ _ _) h
    | answer hi =>
      rw [exec_answer hi] at h
      exact .of_laterEvent (State.attemptAnswered_keepsStore _) h
    | busy =>
      refine .of_laterEvent (fun m => ?_) h
      obtain ⟨memory, pwb⟩ := m.attemptBusy_store
      exact .of_suffix memory pwb
    | finished landed => exact .of_laterEvent (State.abandonedFinished_keepsStore landed) h
  · exact .of_store store

theorem step_keepsStore {s t : State} (h : step s = .next t) : s.keepsStore t := by
  unfold step at h
  split at h
  · obtain rfl := Host.Outcome.next.inj h
    exact .refl s
  · rename_i c rest _
    exact (exec_keepsStore h : State.keepsStore { s with pending := rest } t)

/-- Settles O57: an answer writes to memory in canonical form, only a write for which there is a place joins the buffer, and every other
row leaves both alone or empties the buffer. -/
theorem stepKeepsMemoryAndBuffer : Obligations.StepKeepsMemoryAndBuffer :=
  ⟨fun _ _ ok h => (step_keepsStore h).1 ok, fun _ _ ok h => (step_keepsStore h).2 ok⟩

end Sys2Proof.Machine
end

section
/-! PROOFS. The words of memory that each row changes (R128, R137, R144, R147); and that the steps due at once leave alone the attempt that
a line reset left at the DRAM (R147). -/

namespace Sys2Proof.Machine

/-! ### The attempt that a line reset left (R147) -/

/-- A run of operations that each leave it alone. -/
theorem State.foldl_abandoned {α : Type} (f : State → α → State) (h : ∀ s a, (f s a).port.abandoned = s.port.abandoned) (l : List α) :
    ∀ s : State, (l.foldl f s).port.abandoned = s.port.abandoned := by
  induction l with
  | nil => exact fun _ => rfl
  | cons a as ih => exact fun s => (ih (f s a)).trans (h s a)

@[simp] theorem Port.abandon_abandoned (p : Port) (c : Client) : (p.abandon c).abandoned = p.abandoned := by
  cases c <;> rfl

@[simp] theorem State.endCommand_port (s : State) (x : Status) (r : Option (List Word)) : (s.endCommand x r).port = s.port := by
  unfold State.endCommand
  repeat' split
  all_goals rfl

@[simp] theorem State.leaveCorrelation_abandoned (s : State) (e : Nat) (o : SweepOutcome) :
    (s.leaveCorrelation e o).port.abandoned = s.port.abandoned := by
  have stop (x : State) : x.stopIdleTimer.port = x.port := by
    unfold State.stopIdleTimer
    split <;> rfl
  unfold State.leaveCorrelation
  split
  · rfl
  · rename_i w _
    rw [stop, Port.sweepLeft_eq]
    cases w.pilot <;> rfl

@[simp] theorem State.applyAbort_abandoned (s : State) (n : Nat) : (s.applyAbort n).port.abandoned = s.port.abandoned := by
  unfold State.applyAbort
  split
  · exact State.foldl_abandoned _ (fun s e => State.leaveCorrelation_abandoned s e .modeAborted) _ s
  · rfl

@[simp] theorem State.leaveAcquire_abandoned (s : State) : s.leaveAcquire.port.abandoned = s.port.abandoned := by
  have emptied : s.clearAssembler.port.abandoned = s.port.abandoned := by
    unfold State.clearAssembler State.abandonProcess
    split
    · exact Port.abandon_abandoned _ _
    all_goals rfl
  unfold State.leaveAcquire
  split
  · exact emptied
  · rfl

@[simp] theorem State.discardSlot_abandoned (s : State) (i : Nat) (r : DiscardReason) :
    (s.discardSlot i r).port.abandoned = s.port.abandoned :=
  State.foldl_abandoned (fun s p => s.discardRead r p) (fun _ _ => rfl) _ s

theorem State.engineResetRule_abandoned (q : QueueEntry) (s : State) : (s.engineResetRule q).port.abandoned = s.port.abandoned := by
  have freed (x : State) (i : Nat) : (x.discardStack i).port.abandoned = x.port.abandoned := State.discardSlot_abandoned _ i _
  have reset : s.resetSweeps.resetStackUnit.port.abandoned = s.port.abandoned := by simp
  exact (State.foldl_abandoned _ freed _ _).trans reset

@[simp] theorem State.enterSweep_port (s : State) (o : NoticeOperands) (i e : Nat) : (s.enterSweep o i e).port = s.port := by
  unfold State.enterSweep State.claimPilot
  simp only
  cases o.pilot <;> (split <;> rfl)

@[simp] theorem State.completeTest_port (s : State) (i : Nat) : (s.completeTest i).port = s.port := by
  unfold State.completeTest
  simp only
  split <;> rfl

theorem CommandKind.rule_abandoned (k : CommandKind) (q : QueueEntry) (s : State) :
    (k.rule q s).port.abandoned = s.port.abandoned := by
  cases k
  case engineReset => exact State.engineResetRule_abandoned q s
  all_goals
    simp only [CommandKind.rule, State.setModeRule, State.setMode, State.geometryRule, State.windowRule, State.changeWindow,
      State.timersRule, State.readStateRule, State.noticeRule, State.cancelRule, State.readSweepRule, State.defineRule,
      State.removeRule, State.muteRule, State.unmuteRule, State.readChannelRule, State.openRule, State.claimSlot, State.closeRule,
      State.releaseRule, State.arbiterRule, State.reportsRule, State.channelMuted]
    repeat' split
    all_goals simp

theorem State.beginHead_abandoned (s : State) : s.beginHead.port.abandoned = s.port.abandoned := by
  have ends (status : Status) : (s.endCommand status).port.abandoned = s.port.abandoned := by simp
  unfold State.beginHead State.beginCommand
  repeat' split
  · rfl
  · exact ends _
  · rfl
  · exact CommandKind.rule_abandoned _ _ s
  · exact ends _

theorem State.atOnce_abandoned (s : State) : s.atOnce.port.abandoned = s.port.abandoned := by
  unfold State.atOnce
  split_ifs
  · exact s.beginHead_abandoned
  · unfold State.makeSlotClaim State.claimSlot
    split <;> simp
  · unfold State.makeWindowChange State.changeWindow
    split <;> simp

theorem State.caughtUp_abandoned (s : State) : s.caughtUp.port.abandoned = s.port.abandoned :=
  State.caughtUp_keeps (P := fun x => x.port.abandoned = s.port.abandoned) (fun x h => x.settle_abandoned.trans h)
    (fun x h => x.atOnce_abandoned.trans h) rfl

/-! ### The rows that change words (R137, R144, R147) -/

theorem exec_answer_memory {i : Instr} {a : DramAnswer} {s t m : State} (hm : m = s.caughtUp) (hi : i ∈ answerRows a)
    (h : exec i s = .next t) :
    (i.due m = false → t.memory = s.memory) ∧
    (i.due m = true → t.memory = match m.port.attempt.bind m.port.atDram with
      | none => s.memory
      | some o => s.memory.attempt o.transfer a) := by
  rw [exec_answer hi] at h
  refine ⟨fun idle => ?_, fun due => ?_⟩
  · rw [State.laterEvent_idle (hm ▸ idle)] at h
    obtain rfl := Host.Outcome.next.inj h
    rfl
  · rw [State.laterEvent_at hm due] at h
    obtain rfl := Host.Outcome.next.inj h
    have memory : m.memory = s.memory := hm ▸ s.caughtUp_memory
    rw [← memory]
    exact (State.attemptAnswered_store a m).1

theorem exec_finished_memory {landed : List Bool} {s t : State} (h : exec (.abandonedAttemptFinished landed) s = .next t) :
    t.memory = match s.port.abandoned with
      | none => s.memory
      | some x => s.memory.attempt x (.fault landed) := by
  have due : s.caughtUp.abandonedDue = s.port.abandoned.isSome := congrArg Option.isSome s.caughtUp_abandoned
  change State.laterEvent State.abandonedDue (State.abandonedFinished landed) s = .next t at h
  cases left : s.port.abandoned with
  | none =>
    rw [State.laterEvent_idle (by rw [due, left]; rfl)] at h
    obtain rfl := Host.Outcome.next.inj h
    rfl
  | some x =>
    rw [State.laterEvent_at rfl (by rw [due, left]; rfl)] at h
    obtain rfl := Host.Outcome.next.inj h
    obtain ⟨memory, -⟩ := State.abandonedFinished_store landed s.caughtUp
    rw [State.caughtUp_abandoned, State.caughtUp_memory, left] at memory
    exact memory

theorem exec_memory_kept {i : Instr} {s t : State} (noAnswer : ∀ a, i ∉ answerRows a)
    (noEnd : ∀ landed, i ≠ .abandonedAttemptFinished landed) (h : exec i s = .next t) : t.memory = s.memory := by
  obtain storing | store := exec_store h
  · cases storing with
    | reset b =>
      obtain rfl := Host.Outcome.next.inj h
      rfl
    | write hi =>
      rw [exec_write hi] at h
      obtain rfl | ⟨-, rfl⟩ := State.laterEvent_next h
      · rfl
      · obtain ⟨memory, -⟩ := State.decideWrite_store s.caughtUp _ _ _
        exact memory.trans s.caughtUp_memory
    | answer hi => exact absurd hi (noAnswer _)
    | busy =>
      obtain rfl | ⟨-, rfl⟩ := State.laterEvent_next h
      · rfl
      · obtain ⟨memory, -⟩ := s.caughtUp.attemptBusy_store
        exact memory.trans s.caughtUp_memory
    | finished landed => exact absurd rfl (noEnd landed)
  · exact (State.store_iff.mp store).1

/-- Settles O10: the words of a write and of a failed one are read back by induction on the words, and each row is one of those above. -/
theorem memoryWordsChange : Obligations.MemoryWordsChange := by
  refine ⟨fun mem a ws hm => ⟨Memory.writeWords_wf ws mem a hm, Memory.readWords_writeWords ws mem a hm,
      fun b apart => Memory.read_writeWords_other ws mem a b hm apart⟩,
    fun _ _ _ _ _ => exec_answer_memory, fun _ _ _ => exec_finished_memory, fun _ _ _ => exec_memory_kept, ?_,
    fun mem x b ws landed hm => Memory.read_writeLanded ws landed mem x b hm⟩
  intro mem t a
  cases t <;> cases a <;> rfl

end Sys2Proof.Machine
end

section
/-! PROOFS. Malformed transactions (R118), and the reads that hold the upstream port (R117, R126, R131). -/

namespace Sys2Proof.Machine

/-! ### Malformed transactions (R118) -/

/-- The detail code of a malformed transaction, by the first condition that holds. -/
theorem malformed_code (a n : Nat) : (malformed a n).map MalformedReason.code =
    if n = 0 ∨ 16 < n then some 1 else if a % 4 ≠ 0 then some 2
      else if a / 64 ≠ (a + 4 * (n - 1)) / 64 then some 3 else none := by
  unfold malformed
  split_ifs <;> rfl

section
variable {s : State} {a : Nat} {r : MalformedReason} (q : Requester)

theorem State.decideWrite_malformed {data : List Word} (h : malformed a data.length = some r) :
    s.decideWrite q a data = (s.submit .malformed a (some q) r.code).giveAnswer .abort := by
  simp only [State.decideWrite, h]

theorem State.readTransaction_malformed {n : Nat} (h : malformed a n = some r) :
    s.readTransaction q a n = (s.submit .malformed a (some q) r.code).giveAnswer .abort := by
  simp only [State.readTransaction, h]

end

/-- Settles O11: the reason gives the code, and a write and a read answer it alike. -/
theorem malformedTransaction : Obligations.MalformedTransaction := by
  intro s f q a data n length i code hf held row reason
  rw [← malformed_code] at reason
  obtain ⟨r, formed, rfl⟩ := Option.map_eq_some_iff.mp reason
  obtain ⟨write, rfl⟩ | ⟨rfl, rfl⟩ := row
  · rw [State.writeRow_at hf held write, State.decideWrite_malformed q formed]
    rfl
  · rw [State.readRow_at hf held, State.readTransaction_malformed q formed]
    rfl

/-! ### Pass-through reads (R126, R131) -/

/-- A read is a pass-through one outside the stack slots, in a FREE one, and in a SEALED one with no entry for it (R126). -/
theorem State.decideRead_passes {s : State} {q : Requester} {a n : Nat}
    (h : s.region a ≠ .stack ∨ s.slotStateAt a = .free ∨ s.slotStateAt a = .sealed ∧ s.drqFind q a n = none) :
    s.decideRead q a n = s.holdRead q a n := by
  unfold State.decideRead
  cases lies : s.stackSlotAt a with
  | none => rfl
  | some slot =>
    have state : s.slotStateAt a = (s.slotEntry slot).state := by simp only [State.slotStateAt, lies]
    rw [state] at h
    by_cases region : s.region a = .stack
    · obtain elsewhere | free | ⟨isSealed, new⟩ := h
      · exact absurd region elsewhere
      · simp [region, free]
      · have unanswered : s.sealedRead q a n = none := by simp only [State.sealedRead, new]
        simp [region, isSealed, unanswered]
    · exact if_pos region

/-- With the buffer empty the read is issued as it takes the port (R131). -/
theorem State.holdRead_issues {s : State} {q : Requester} {a n : Nat} (pwb : s.pwb = []) :
    s.holdRead q a n = State.issueHeld { s with held := some ⟨q, a, n, false⟩, answer := none } ⟨q, a, n, false⟩ := by
  simp [State.holdRead, pwb]

/-- Otherwise it waits for the buffer to drain. -/
theorem State.holdRead_waits {s : State} {q : Requester} {a n : Nat} (pwb : s.pwb ≠ []) :
    s.holdRead q a n = { s with held := some ⟨q, a, n, false⟩, answer := none } := by
  simp [State.holdRead, pwb]

/-- Settles O19: the read takes the port, and the Read Path issues it with the buffer empty. -/
theorem passThroughReadHolds : Obligations.PassThroughReadHolds := by
  refine ⟨?_, ?_⟩
  · intro s f q a n hf held formed passes
    rw [State.readRow_at hf held, State.readTransaction_wellFormed formed, State.decideRead_passes passes]
    refine ⟨fun pwb => ?_, fun pwb => ?_⟩
    · rw [State.holdRead_issues pwb]
      rfl
    · rw [State.holdRead_waits pwb]
  · intro s m h hm pwb held unissued
    have due : m.readIssueDue = true := by simp [State.readIssueDue, pwb, held, unissued]
    have issued : m.issueRead = m.issueHeld h := by simp only [State.issueRead, held]
    have row : exec .passThroughReadIssue s = .next m.issueRead.settle := State.laterEvent_at hm due
    rw [row, issued]
    rfl

end Sys2Proof.Machine
end

section
/-! PROOFS. Accepted writes into the words of the Control Area that a block owns: the consumer index word (R125, R175, R176) and the
command slots (R124, R148, R149, R181). -/

namespace Sys2Proof.Machine

/-! ### Writes into the Control Area (R119, R121, R123) -/

/-- The Control Area begins on a 64-byte block. -/
theorem State.controlBase_block (s : State) : s.controlBase % 64 = 0 := by
  have step : s.controlBase = 64 * (2 ^ 30 * s.cbase.toNat) := by
    unfold State.controlBase
    rw [← Nat.mul_assoc]
    rfl
  omega

theorem Range.contains_iff (r : Range) (a : Nat) : r.contains a = true ↔ r.base ≤ a ∧ a < r.limit := by
  simp [Range.contains]

theorem State.region_control {s : State} {a : Nat} (low : s.controlBase ≤ a) (high : a < s.controlBase + 65536) :
    s.region a = .control := by
  have limit : s.controlRange.limit = 65536 + s.controlBase := rfl
  have inside : s.controlRange.contains a = true := (Range.contains_iff _ a).mpr ⟨low, by omega⟩
  exact if_pos inside

/-- A write of the words `n`, `n + 1`, … of the Control Area, all in one 64-byte block. -/
structure State.ControlWrite (s : State) (a n : Nat) (data : List Word) : Prop where
  place : s.pwb.length < 32
  lies : a = s.controlBase + 4 * n
  nonempty : 0 < data.length
  block : n % 16 + data.length ≤ 16
  area : n < 16384

/-- Such a write is accepted when none of its words refuses it: the Command Unit takes its words, and then the Report Unit (R123). -/
theorem State.ControlWrite.accepted {s : State} {a n : Nat} {data : List Word} (h : s.ControlWrite a n data) (q : Requester)
    (unrefused : ∀ k < data.length, s.controlRefuses (4 * (n + k)) = none) : s.decideWrite q a data =
      (((s.buffered q a data).takeCommandWords a data).takeConsumerWord a data).giveAnswer .accept := by
  obtain ⟨place, lies, nonempty, block, area⟩ := h
  have base := s.controlBase_block
  have formed : malformed a data.length = none := by
    unfold malformed
    rw [if_neg (by omega), if_neg (by omega), if_neg (by omega)]
  have region : s.region a = .control := State.region_control (by omega) (by omega)
  have refusal : s.refusal a data.length = none := by
    simp only [State.refusal, region]
    refine List.findSome?_eq_none_iff.mpr fun k hk => ?_
    have offset : a + 4 * k - s.controlBase = 4 * (n + k) := by omega
    rw [offset]
    exact unrefused k (List.mem_range.mp hk)
  have raw : s.liveRaw a = none := State.liveRaw_none (.inl (by simp [region]))
  rw [State.decideWrite_buffered formed refusal raw place]
  simp only [State.takeWrite, State.buffered_region, region]

/-! ### The consumer index (R125, R175, R176) -/

theorem Reports.takesConsumer_iff (r : Reports) (v : Nat) : r.takesConsumer v = true ↔
    v < r.size ∧ (v + r.size - r.consumer) % r.size ≤ (r.producer + r.size - r.consumer) % r.size := by
  have upTo : r.takesConsumer v = true ↔ v < r.size ∧ (v + r.size - r.consumer) % r.size ≤ r.occupied := by
    simp [Reports.takesConsumer]
  exact upTo

theorem State.takeConsumer_moves {s : State} {v : Nat} (takes : s.reports.takesConsumer v = true) (moves : v ≠ s.reports.consumer) :
    s.takeConsumer v = { s with reports := Reports.flush { s.reports with consumer := v } s.assembler.newest } := by
  simp [State.takeConsumer, takes, moves]

theorem State.takeConsumer_ignores {s : State} {v : Nat} (h : s.reports.takesConsumer v = false ∨ v = s.reports.consumer) :
    s.takeConsumer v = s := by
  unfold State.takeConsumer
  obtain ignored | same := h
  · simp [ignored]
  · simp [same]

/-- A write that begins with the consumer index word hands its first word to the Report Unit. -/
theorem State.takeConsumerWord_first {s : State} {a : Nat} {v : Word} {vs : List Word} (lies : a = s.controlBase + 0x140) :
    s.takeConsumerWord a (v :: vs) = s.takeConsumer v.toNat := by
  have first : s.consumerWord a (v :: vs) = some v := by
    unfold State.consumerWord
    rw [if_pos (by rw [List.length_cons]; omega), lies, Nat.sub_self]
    rfl
  simp only [State.takeConsumerWord, first]

/-- Settles O18: the write reaches the Report Unit alone, which takes or ignores its first word. -/
theorem consumerIndexTaken : Obligations.ConsumerIndexTaken := by
  intro s f q a v vs i hf held hi short lies place
  have control : f.ControlWrite a.toNat 80 (v :: vs) :=
    ⟨place, lies, by simp, by rw [List.length_cons]; omega, by omega⟩
  have unrefused : ∀ k < (v :: vs).length, f.controlRefuses (4 * (80 + k)) = none := by
    intro k hk
    rw [List.length_cons] at hk
    unfold State.controlRefuses
    rw [if_neg (by omega), if_neg (by omega)]
  have commands : (f.buffered q a.toNat (v :: vs)).takeCommandWords a.toNat (v :: vs) = f.buffered q a.toNat (v :: vs) :=
    State.takeCommandWords_above (by rw [State.buffered_controlBase]; omega)
  have row : exec i s = .next (State.settle (((f.buffered q a.toNat (v :: vs)).takeConsumer v.toNat).giveAnswer .accept)) := by
    rw [State.writeRow_at hf held hi, control.accepted q unrefused, commands,
      State.takeConsumerWord_first (s := f.buffered q a.toNat (v :: vs)) lies]
  rw [row]
  refine ⟨fun ⟨below, moves, within⟩ => ?_, fun ignored => ?_⟩
  · have takes : f.reports.takesConsumer v.toNat = true := (f.reports.takesConsumer_iff _).mpr ⟨below, within⟩
    rw [State.takeConsumer_moves (s := f.buffered q a.toNat (v :: vs)) takes moves]
    rfl
  · have ignores : f.reports.takesConsumer v.toNat = false ∨ v.toNat = f.reports.consumer := by
      rw [← Bool.not_eq_true, Reports.takesConsumer_iff]
      omega
    rw [State.takeConsumer_ignores (s := f.buffered q a.toNat (v :: vs)) ignores]
    rfl

/-! ### The words of a slot (R124, R148) -/

/-- A word at a time: whether it lies in the slot, and then the words after it. -/
theorem slotWords_cons (base a : Nat) (w : Word) (ws : List Word) (j : Nat) : slotWords base a (w :: ws) j =
    (if base + 32 * j ≤ a ∧ a < base + 32 * j + 32 then [((a - (base + 32 * j)) / 4, w)] else []) ++
      slotWords base (a + 4) ws j := by
  have next (i : Nat) : a + 4 * (i + 1) = a + 4 + 4 * i := by omega
  unfold slotWords
  rw [List.zipIdx_cons, List.zipIdx_succ, List.filterMap_cons, List.filterMap_map]
  simp only [Function.comp_def, next, Nat.mul_zero, Nat.add_zero]
  split_ifs <;> rfl

theorem slotWords_append (base a : Nat) (xs ys : List Word) (j : Nat) :
    slotWords base a (xs ++ ys) j = slotWords base a xs j ++ slotWords base (a + 4 * xs.length) ys j := by
  induction xs generalizing a with
  | nil => rfl
  | cons x xs ih =>
    have next : a + 4 * (x :: xs).length = a + 4 + 4 * xs.length := by rw [List.length_cons]; omega
    rw [List.cons_append, slotWords_cons, ih, slotWords_cons, List.append_assoc, next]

/-- A write below a slot brings it no word. -/
theorem slotWords_below {base a j : Nat} {data : List Word} (h : a + 4 * data.length ≤ base + 32 * j) : slotWords base a data j = [] := by
  induction data generalizing a with
  | nil => rfl
  | cons w ws ih =>
    rw [List.length_cons] at h
    rw [slotWords_cons, if_neg (by omega), ih (by omega)]
    rfl

/-- A write inside a slot brings it all its words, from the number of the first on. -/
theorem slotWords_inside {base j k : Nat} {data : List Word} (h : k + data.length ≤ 8) :
    slotWords base (base + 32 * j + 4 * k) data j = (data.zipIdx k).map Prod.swap := by
  induction data generalizing k with
  | nil => rfl
  | cons w ws ih =>
    rw [List.length_cons] at h
    have number : (base + 32 * j + 4 * k - (base + 32 * j)) / 4 = k := by omega
    have next : base + 32 * j + 4 * k + 4 = base + 32 * j + 4 * (k + 1) := by omega
    rw [slotWords_cons, if_pos (by omega), number, next, ih (by omega)]
    rfl

/-- Words written one after another from place `k` on replace those of the list. -/
theorem foldl_set_zipIdx {α : Type} (data copy : List α) (k : Nat) (h : k + data.length ≤ copy.length) :
    ((data.zipIdx k).map Prod.swap).foldl (fun c p => c.set p.1 p.2) copy = copy.take k ++ data ++ copy.drop (k + data.length) := by
  induction data generalizing copy k with
  | nil => simp
  | cons w ws ih =>
    rw [List.length_cons] at h
    have place : k < copy.length := by omega
    rw [List.zipIdx_cons, List.map_cons, List.foldl_cons, Prod.swap, ih _ _ (by rw [List.length_set]; omega),
      List.take_set, List.drop_set_of_lt (by omega), List.take_succ_eq_append_getElem place, List.length_cons]
    have split : (copy.take k ++ [copy[k]]).set k w = copy.take k ++ [w] := by
      have front : (copy.take k).length = k := by rw [List.length_take]; omega
      rw [List.set_append_right _ _ front.le, front, Nat.sub_self]
      rfl
    rw [split]
    simp [Nat.add_comm, Nat.add_left_comm]

/-- The Command Unit once slot `j`, with the copy `c`, has taken words from number `k` on: the copy is `copy`, and the command is posted
when word 0 is among them (R148, R149). -/
def CommandUnit.taken (u : CommandUnit) (j k : Nat) (c : CommandSlot) (copy : List Word) : CommandUnit :=
  if k = 0 then
    { u with
      slots := u.slots.set j ⟨copy, true, none, false⟩
      queue := u.queue ++ [⟨j, (copy.getD 0 0).extractLsb' 0 16, (copy.getD 0 0).extractLsb' 16 16, (copy.drop 1).take 6⟩]
      busyWaits := u.busyWaits ++ [j] }
  else { u with slots := u.slots.set j { c with copy := copy } }

/-- A slot that takes words from number `k` on. -/
theorem State.takeSlotWords_taken {s : State} {a j k : Nat} {data words : List Word} {c : CommandSlot}
    (handed : slotWords s.controlBase a data j = (words.zipIdx k).map Prod.swap) (nonempty : words ≠ [])
    (slot : s.commands.slots[j]? = some c) (length : c.copy.length = 8) (short : k + words.length ≤ 8) :
    s.takeSlotWords a data j =
      { s with commands := s.commands.taken j k c (c.copy.take k ++ words ++ c.copy.drop (k + words.length)) } := by
  obtain ⟨inTable, at_j⟩ := List.getElem?_eq_some_iff.mp slot
  have old : s.commandSlot j = c := by rw [State.commandSlot, List.getD_eq_getElem _ _ inTable, at_j]
  have taken : c.take ((words.zipIdx k).map Prod.swap) =
      { c with copy := c.copy.take k ++ words ++ c.copy.drop (k + words.length) } := by
    rw [CommandSlot.take, foldl_set_zipIdx words c.copy k (by omega)]
  have posts : ((words.zipIdx k).map Prod.swap).any (fun p => p.1 == 0) = decide (k = 0) := by
    obtain ⟨w, ws, rfl⟩ := List.exists_cons_of_ne_nil nonempty
    have later : ((ws.zipIdx (k + 1)).map Prod.swap).any (fun p => p.1 == 0) = false := by
      rw [List.any_eq_false]
      intro p hp
      obtain ⟨x, hx, rfl⟩ := List.mem_map.mp hp
      have := List.le_snd_of_mem_zipIdx hx
      simp only [Prod.fst_swap, beq_iff_eq]
      omega
    rw [List.zipIdx_cons, List.map_cons, List.any_cons, later, Bool.or_false]
    exact beq_eq_decide k 0
  unfold State.takeSlotWords
  simp only [handed, old, taken, posts, decide_eq_true_eq]
  unfold CommandUnit.taken
  split_ifs
  · have new (x : CommandSlot) : (s.setCommandSlot j x).commandSlot j = x := by
      simp [State.commandSlot, State.setCommandSlot, inTable]
    simp only [State.post, new]
    simp [State.setCommandSlot, CommandSlot.entry, CommandSlot.tag]
  · rfl

/-- Slots that get no word stay as they are. -/
theorem State.foldl_takeSlotWords_none {s : State} {a : Nat} {data : List Word} (l : List Nat)
    (h : ∀ x ∈ l, slotWords s.controlBase a data x = []) : l.foldl (fun s j => s.takeSlotWords a data j) s = s := by
  refine List.foldlRecOn (motive := (· = s)) _ _ rfl ?_
  rintro _ rfl x hx
  exact State.takeSlotWords_none (h x hx)

/-! ### A write into one slot or into two (R124, R149) -/

/-- What leaves the base alone leaves the Control Area where it is. -/
theorem State.controlBase_of_base {s t : State} (h : t.base = s.base) : t.controlBase = s.controlBase := by
  have cbase : t.cbase = s.cbase := congrArg (·.2.2.1) h
  rw [State.controlBase, cbase, State.controlBase]

@[simp] theorem State.takeSlotWords_controlBase (s : State) (a : Nat) (data : List Word) (j : Nat) :
    (s.takeSlotWords a data j).controlBase = s.controlBase := State.controlBase_of_base (State.takeSlotWords_base s a data j)

@[simp] theorem State.takeCommandWords_controlBase (s : State) (a : Nat) (data : List Word) :
    (s.takeCommandWords a data).controlBase = s.controlBase := State.controlBase_of_base (State.takeCommandWords_base s a data)

/-- The slots are gone through in order, and the first that gets a word is `j`. -/
theorem State.takeCommandWords_from {s : State} {a j : Nat} {data : List Word} (hj : j < 8) (above : s.controlBase + 32 * j ≤ a) :
    s.takeCommandWords a data =
      (List.range' (j + 1) (7 - j)).foldl (fun s j => s.takeSlotWords a data j) (s.takeSlotWords a data j) := by
  have slots : List.range Config.slotCount = List.range' 0 j ++ j :: List.range' (j + 1) (7 - j) := by
    have count : Config.slotCount = j + (7 - j + 1) := show 8 = _ by omega
    have split := List.range'_append_1 (s := 0) (m := j) (n := 7 - j + 1)
    rw [Nat.zero_add, List.range'_succ] at split
    rw [List.range_eq_range', count, split]
  have before : (List.range' 0 j).foldl (fun s j => s.takeSlotWords a data j) s = s := by
    refine State.foldl_takeSlotWords_none _ fun x hx => slotWords_above ?_
    have := (List.mem_range'_1.mp hx).2
    omega
  rw [State.takeCommandWords, slots, List.foldl_append, before, List.foldl_cons]

/-- When the words end before the slot after `j`, it is the only one. -/
theorem State.takeCommandWords_one {s : State} {a j : Nat} {data : List Word} (hj : j < 8) (above : s.controlBase + 32 * j ≤ a)
    (below : a + 4 * data.length ≤ s.controlBase + 32 * (j + 1)) : s.takeCommandWords a data = s.takeSlotWords a data j := by
  rw [State.takeCommandWords_from hj above]
  refine State.foldl_takeSlotWords_none _ fun x hx => slotWords_below ?_
  have := (List.mem_range'_1.mp hx).1
  rw [State.takeSlotWords_controlBase]
  omega

/-- When they end before the slot after that, the second follows the first. -/
theorem State.takeCommandWords_two {s : State} {a j : Nat} {data : List Word} (hj : j < 7) (above : s.controlBase + 32 * j ≤ a)
    (below : a + 4 * data.length ≤ s.controlBase + 32 * (j + 2)) :
    s.takeCommandWords a data = (s.takeSlotWords a data j).takeSlotWords a data (j + 1) := by
  have later : 7 - j = 6 - j + 1 := by omega
  rw [State.takeCommandWords_from (by omega) above, later, List.range'_succ, List.foldl_cons]
  refine State.foldl_takeSlotWords_none _ fun x hx => slotWords_below ?_
  have := (List.mem_range'_1.mp hx).1
  rw [State.takeSlotWords_controlBase, State.takeSlotWords_controlBase]
  omega

/-- A write into the command slots that are not busy is refused by no word, and brings the Report Unit none. -/
theorem State.ControlWrite.taken {s : State} {a n : Nat} {data : List Word} (h : s.ControlWrite a n data) (q : Requester)
    (slots : n + data.length ≤ 64) (idle : ∀ k < data.length, (s.commandSlot ((n + k) / 8)).busy = false) :
    s.decideWrite q a data = ((s.buffered q a data).takeCommandWords a data).giveAnswer .accept := by
  have unrefused : ∀ k < data.length, s.controlRefuses (4 * (n + k)) = none := by
    intro k hk
    have number : 4 * (n + k) / 32 = (n + k) / 8 := by omega
    unfold State.controlRefuses
    rw [if_pos (by omega), number, idle k hk]
    rfl
  have aligned := s.controlBase_aligned
  have lies := h.lies
  have consumer : ((s.buffered q a data).takeCommandWords a data).consumerWord a data = none := by
    refine State.consumerWord_none (by omega) fun k hk => ?_
    rw [State.takeCommandWords_controlBase, State.buffered_controlBase]
    omega
  rw [h.accepted q unrefused]
  simp only [State.takeConsumerWord, consumer]

theorem State.commandSlot_idle {s : State} {j : Nat} {c : CommandSlot} (slot : s.commands.slots[j]? = some c) (idle : c.busy = false) :
    (s.commandSlot j).busy = false := by
  obtain ⟨inTable, at_j⟩ := List.getElem?_eq_some_iff.mp slot
  rw [State.commandSlot, List.getD_eq_getElem _ _ inTable, at_j, idle]

/-- A write inside slot `j`, from its word `k` on. -/
theorem State.decideWrite_slot {s : State} {q : Requester} {a j k : Nat} {data : List Word} {c : CommandSlot} (place : s.pwb.length < 32)
    (hj : j < 8) (nonempty : 1 ≤ data.length) (short : k + data.length ≤ 8) (lies : a = s.controlBase + 32 * j + 4 * k)
    (slot : s.commands.slots[j]? = some c) (length : c.copy.length = 8) (idle : c.busy = false) :
    s.decideWrite q a data = State.giveAnswer { s.buffered q a data with
      commands := s.commands.taken j k c (c.copy.take k ++ data ++ c.copy.drop (k + data.length)) } .accept := by
  have control : s.ControlWrite a (8 * j + k) data := ⟨place, by omega, nonempty, by omega, by omega⟩
  have handed : slotWords s.controlBase a data j = (data.zipIdx k).map Prod.swap := lies ▸ slotWords_inside short
  have taken := State.takeSlotWords_taken (s := s.buffered q a data) handed (List.length_pos_iff.mp nonempty) slot length short
  have one := State.takeCommandWords_one (s := s.buffered q a data) (a := a) (data := data) hj
    (by rw [State.buffered_controlBase]; omega) (by rw [State.buffered_controlBase]; omega)
  rw [control.taken q (by omega) ?_, one, taken]
  · rfl
  · intro i hi
    have number : (8 * j + k + i) / 8 = j := by omega
    rw [number]
    exact State.commandSlot_idle slot idle

/-- A write from word `k` of slot `j` on that reaches into the next slot. -/
theorem State.decideWrite_slots {s : State} {q : Requester} {a j k : Nat} {data : List Word} {c d : CommandSlot}
    (place : s.pwb.length < 32) (hj : j < 8) (even : j % 2 = 0) (first : k < 8) (long : 8 < k + data.length)
    (short : k + data.length ≤ 16) (lies : a = s.controlBase + 32 * j + 4 * k) (low : s.commands.slots[j]? = some c)
    (high : s.commands.slots[j + 1]? = some d) (lowLength : c.copy.length = 8) (highLength : d.copy.length = 8)
    (lowIdle : c.busy = false) (highIdle : d.busy = false) :
    s.decideWrite q a data = State.giveAnswer { s.buffered q a data with
      commands := (s.commands.taken j k c (c.copy.take k ++ data.take (8 - k))).taken (j + 1) 0 d
        (data.drop (8 - k) ++ d.copy.drop (k + data.length - 8)) } .accept := by
  have control : s.ControlWrite a (8 * j + k) data := ⟨place, by omega, by omega, by omega, by omega⟩
  have lowCount : (data.take (8 - k)).length = 8 - k := by rw [List.length_take]; omega
  have highCount : (data.drop (8 - k)).length = k + data.length - 8 := by rw [List.length_drop]; omega
  have next : a + 4 * (8 - k) = s.controlBase + 32 * (j + 1) + 4 * 0 := by omega
  have parts (x : Nat) : slotWords s.controlBase a data x = slotWords s.controlBase a (data.take (8 - k)) x ++
      slotWords s.controlBase (s.controlBase + 32 * (j + 1) + 4 * 0) (data.drop (8 - k)) x := by
    have split := slotWords_append s.controlBase a (data.take (8 - k)) (data.drop (8 - k)) x
    rwa [List.take_append_drop, lowCount, next] at split
  have lowHanded : slotWords s.controlBase a data j = ((data.take (8 - k)).zipIdx k).map Prod.swap := by
    have above : slotWords s.controlBase (s.controlBase + 32 * (j + 1) + 4 * 0) (data.drop (8 - k)) j = [] :=
      slotWords_above (by omega)
    rw [parts, above, List.append_nil, lies]
    exact slotWords_inside (by omega)
  have highHanded : slotWords s.controlBase a data (j + 1) = ((data.drop (8 - k)).zipIdx 0).map Prod.swap := by
    have below : slotWords s.controlBase a (data.take (8 - k)) (j + 1) = [] := slotWords_below (by omega)
    rw [parts, below, List.nil_append]
    exact slotWords_inside (by omega)
  have lowTaken := State.takeSlotWords_taken (s := s.buffered q a data) lowHanded (List.ne_nil_of_length_pos (by omega)) low lowLength
    (by omega)
  have tail : c.copy.drop (k + (data.take (8 - k)).length) = [] := List.drop_eq_nil_of_le (by omega)
  rw [tail, List.append_nil] at lowTaken
  have kept : (s.commands.taken j k c (c.copy.take k ++ data.take (8 - k))).slots[j + 1]? = some d := by
    unfold CommandUnit.taken
    split_ifs <;> rw [List.getElem?_set_ne (by omega), high]
  have highTaken := State.takeSlotWords_taken
    (s := { s.buffered q a data with commands := s.commands.taken j k c (c.copy.take k ++ data.take (8 - k)) })
    highHanded (List.ne_nil_of_length_pos (by omega)) kept highLength (by omega)
  rw [List.take_zero, List.nil_append, Nat.zero_add, highCount] at highTaken
  have two := State.takeCommandWords_two (s := s.buffered q a data) (a := a) (data := data) (j := j) (by omega)
    (by rw [State.buffered_controlBase]; omega) (by rw [State.buffered_controlBase]; omega)
  have commands : (s.buffered q a data).commands = s.commands := rfl
  rw [control.taken q (by omega) ?_, two, lowTaken, commands, highTaken]
  intro i hi
  obtain number | number : (8 * j + k + i) / 8 = j ∨ (8 * j + k + i) / 8 = j + 1 := by omega
  · rw [number]
    exact State.commandSlot_idle low lowIdle
  · rw [number]
    exact State.commandSlot_idle high highIdle

/-- Settles O15: one slot takes the words, or the lower one its words and then the other the rest. -/
theorem commandSlotWrite : Obligations.CommandSlotWrite := by
  refine ⟨?_, ?_⟩
  · intro s f q a data copy i j k c hf held hi hj nonempty short lies _ slot length idle place hcopy
    rw [State.writeRow_at hf held hi, State.decideWrite_slot place hj nonempty short lies slot length idle, ← hcopy]
    rfl
  · intro s f q a data low high i j k c d entry hf held hi hj even first long short lies _ hlow hhigh lowLength highLength lowIdle
      highIdle place words words' entries
    rw [State.writeRow_at hf held hi,
      State.decideWrite_slots place hj even first long short lies hlow hhigh lowLength highLength lowIdle highIdle, ← words, ← words']
    simp only [entries]
    by_cases posted : k = 0
    · simp [posted, CommandUnit.taken, State.giveAnswer, State.buffered]
    · simp [posted, CommandUnit.taken, State.giveAnswer, State.buffered]

end Sys2Proof.Machine
end

section
/-! PROOFS. The arbiter of the memory port (R138 to R141): its decision in each row of R141's table, the client that a turn of the part
side goes to (R140), and that the boundary of an event leaves no side waiting that could be served. -/

namespace Sys2Proof.Machine

/-! ### The decision (R141) -/

section
variable {p : Port} (attempt : p.attempt = none) (abandoned : p.abandoned = none)
include attempt abandoned

theorem Port.arbitrate_quiet (holder : p.waiting p.holder = false) (other : p.waiting p.holder.other = false) : p.arbitrate = p := by
  simp [Port.arbitrate, attempt, abandoned, holder, other]

theorem Port.arbitrate_holder (holder : p.waiting p.holder = true) (other : p.waiting p.holder.other = false) :
    p.arbitrate = p.issue p.holder := by
  simp [Port.arbitrate, attempt, abandoned, holder, other]

theorem Port.arbitrate_other (holder : p.waiting p.holder = false) (other : p.waiting p.holder.other = true) :
    p.arbitrate = { p with holder := p.holder.other, sliceCount := 0 }.issue p.holder.other := by
  simp [Port.arbitrate, attempt, abandoned, holder, other]

theorem Port.arbitrate_both (holder : p.waiting p.holder = true) (other : p.waiting p.holder.other = true) :
    p.arbitrate = if p.sliceCount < p.slice p.holder then { p with sliceCount := p.sliceCount + 1 }.issue p.holder
      else { p with holder := p.holder.other, sliceCount := 1 }.issue p.holder.other := by
  simp [Port.arbitrate, attempt, abandoned, holder, other]

end

/-! ### The side that issues (R140) -/

/-- The turn goes to the first client after the last one served that has a transfer outstanding. -/
theorem Port.issue_part_turn {p : Port} {c : Client} {before after : List Client} (idle : p.current = none)
    (order : Client.after p.rotation = before ++ c :: after) (skipped : ∀ d ∈ before, (p.client d).out = none)
    (out : (p.client c).out.isSome = true) :
    p.issue .part = { p with current := some c, rotation := c, attempt := some .part } := by
  have next : (Client.after p.rotation).find? (fun d => (p.client d).out.isSome) = some c :=
    List.find?_eq_some_iff_append.mpr ⟨out, before, after, order, fun d hd => by simp [skipped d hd]⟩
  simp only [Port.issue, idle, next]

/-! ### After the decision -/

/-- Who holds the port, and the count of its slice, have no part in whether a side waits (R138, R139). -/
theorem Port.waiting_held (p : Port) (holder side : Side) (n : Nat) :
    { p with holder := holder, sliceCount := n }.waiting side = p.waiting side := by
  cases side <;> rfl

theorem Side.eq_or_other (x y : Side) : x = y ∨ x = y.other := by
  cases x <;> cases y <;> simp [Side.other]

/-- When some side waits and the DRAM is free, the decision brings an attempt to it. -/
theorem Port.arbitrate_issues {p : Port} {side : Side} (attempt : p.attempt = none) (abandoned : p.abandoned = none)
    (waits : p.waiting side = true) : p.arbitrate.attempt.isSome = true := by
  have issues {x : Side} (holder : Side) (n : Nat) (h : p.waiting x = true) :
      ({ p with holder := holder, sliceCount := n }.issue x).attempt.isSome = true :=
    Port.issue_attempt ((p.waiting_held holder x n).trans h)
  cases holder : p.waiting p.holder <;> cases other : p.waiting p.holder.other
  case false.false =>
    obtain rfl | rfl := side.eq_or_other p.holder
    · exact absurd waits (by simp [holder])
    · exact absurd waits (by simp [other])
  case false.true =>
    rw [Port.arbitrate_other attempt abandoned holder other]
    exact issues _ _ other
  case true.false =>
    rw [Port.arbitrate_holder attempt abandoned holder other]
    exact Port.issue_attempt holder
  case true.true =>
    rw [Port.arbitrate_both attempt abandoned holder other]
    split
    · exact issues _ _ holder
    · exact issues _ _ other

/-- The arbiter has decided at the boundary of an event: with the DRAM free, no side waits. -/
theorem State.settle_waiting {s : State} (side : Side) (attempt : s.settle.port.attempt = none)
    (abandoned : s.settle.port.abandoned = none) : s.settle.port.waiting side = false := by
  have decided : s.settle.port.arbitrate = s.settle.port := Port.arbitrate_twice s.presented
  by_contra waits
  have issued := Port.arbitrate_issues attempt abandoned (Bool.not_eq_false _ ▸ waits)
  rw [decided, attempt] at issued
  cases issued

/-- Settles O6: the rows of R141's table, the turn of R140, and a boundary that decides once and for all. -/
theorem arbiterDecision : Obligations.ArbiterDecision := by
  refine ⟨fun p attempt abandoned => ⟨Port.arbitrate_quiet attempt abandoned, Port.arbitrate_holder attempt abandoned,
      Port.arbitrate_other attempt abandoned, fun holder other room => ?_, fun holder other used => ?_⟩,
    fun p => rfl, fun p c turn => ?_, fun p c before after => Port.issue_part_turn, fun s => State.settle_waiting⟩
  · rw [Port.arbitrate_both attempt abandoned holder other, if_pos room]
  · rw [Port.arbitrate_both attempt abandoned holder other, if_neg (Nat.not_lt.mpr used)]
  · simp only [Port.issue, turn]

end Sys2Proof.Machine
end

section
/-! PROOFS. ATTEMPT_BUSY (R144): one more BUSY on the transfer at the DRAM, and the BUSY that is one too many. -/

namespace Sys2Proof.Machine

/-! ### The transfer at the DRAM -/

theorem Port.atDram_forwarding {p : Port} {x : ForwardSource} {o : Outstanding} (forward : p.forward = some (x, o)) :
    p.atDram .forwarding = some o := by
  rw [Port.atDram, forward]
  rfl

theorem Port.atDram_part {p : Port} {c : Client} (turn : p.current = some c) : p.atDram .part = (p.client c).out := by
  rw [Port.atDram, turn]
  rfl

/-! ### The row -/

/-- Below the limit the port counts the BUSY; at it the attempt counts as answered FAULT with no word in memory. -/
theorem exec_attemptBusy {s m : State} {side : Side} {o : Outstanding} (hm : m = s.caughtUp) (attempt : m.port.attempt = some side)
    (transfer : m.port.atDram side = some o) :
    exec .attemptBusy s = .next (State.settle
      (if o.busy < 1024 then { m with port := m.port.busy } else m.attemptAnswered (.fault []))) := by
  have due : m.attemptDue = true := by rw [State.attemptDue, attempt]; rfl
  have row : exec .attemptBusy s = .next m.attemptBusy.settle := State.laterEvent_at hm due
  rw [row, State.attemptBusy, attempt, Option.bind_some, transfer]
  rfl

/-- Settles O9: the BUSY counted on either side, and the row of an answer that the last one acts as. -/
theorem busyAnswer : Obligations.BusyAnswer := by
  refine ⟨fun s m x o hm attempt forward few => ?_, fun s m c o hm attempt turn out few => ?_,
    fun s m side o i hm attempt transfer many due answers => ?_, Memory.attempt_fault_nil⟩
  · rw [exec_attemptBusy hm attempt (Port.atDram_forwarding forward), if_pos few]
    simp only [Port.busy, attempt, forward, Option.map_some, Outstanding.met]
  · rw [exec_attemptBusy hm attempt ((Port.atDram_part turn).trans out), if_pos few]
    simp only [Port.busy, attempt, turn, out, Option.map_some, Outstanding.met]
  · rw [exec_attemptBusy hm attempt transfer, if_neg (Nat.not_lt.mpr many), exec_answer answers]
    exact (State.laterEvent_at hm due).symm

end Sys2Proof.Machine
end

section
/-! PROOFS. The commands that set values: SET_GEOMETRY (R155), SET_TIMERS (R158) and SET_ARBITER (R143). -/

namespace Sys2Proof.Machine

/-! ### SET_GEOMETRY (R155) -/

theorem Geometry.inRange_iff (c k l : Nat) : Geometry.inRange ⟨c, k, l⟩ = true ↔
    1 ≤ c ∧ c ≤ 3072 ∧ 1 ≤ k ∧ k ≤ 4096 ∧ 64 ≤ l ∧ l ≤ 32768 := by
  simp only [Geometry.inRange, Bool.and_eq_true, decide_eq_true_eq, and_assoc]
  rfl

theorem Windows.anyOn_eq_false_iff (w : Windows) : w.anyOn = false ↔ w = ⟨none, none, none, none⟩ := by
  obtain ⟨raw, stack, scratch, pilot⟩ := w
  simp [Windows.anyOn, and_assoc]

section
variable {s : State} {q : QueueEntry}

theorem State.geometryRule_badOperand (range : Geometry.inRange ⟨q.whole 1, q.whole 2, q.whole 3⟩ = false) :
    s.geometryRule q = s.endCommand .badOperand := if_pos range

variable (range : Geometry.inRange ⟨q.whole 1, q.whole 2, q.whole 3⟩ = true)
include range

theorem State.geometryRule_badState (on : s.windows.anyOn = true) : s.geometryRule q = s.endCommand .badState := by
  simp [State.geometryRule, range, on]

theorem State.geometryRule_set (off : s.windows.anyOn = false) :
    s.geometryRule q = State.endCommand { s with geometry := ⟨q.whole 1, q.whole 2, q.whole 3⟩ } .ok := by
  simp [State.geometryRule, range, off]

end

/-! ### SET_TIMERS and SET_ARBITER (R143, R158) -/

/-- Two operands in a range that begins at 1 are none of those refused. -/
theorem not_refused {a b top : Nat} (h : 1 ≤ a ∧ a ≤ top ∧ 1 ≤ b ∧ b ≤ top) : ¬ (a = 0 ∨ top < a ∨ b = 0 ∨ top < b) := by omega

/-- Settles O45: each rule by whether its operands are in range, and for SET_GEOMETRY by whether a window is on. -/
theorem settingsCommands : Obligations.SettingsCommands := by
  intro s m q hm
  refine ⟨fun heads c k l hc hk hl => ?_, fun heads => ?_, fun heads => ?_⟩
  · subst hc hk hl
    have row : exec .setGeometry s = .next (m.geometryRule q).settle := State.command_at hm heads
    have formed := Geometry.inRange_iff (q.whole 1) (q.whole 2) (q.whole 3)
    rw [row]
    refine ⟨fun refused => ?_, fun accepted => ⟨fun on => ?_, fun off => ?_⟩⟩
    · have range := Bool.eq_false_iff.mpr (formed.not.mpr (by omega))
      rw [State.geometryRule_badOperand range]
    · rw [State.geometryRule_badState (formed.mpr accepted) (Bool.eq_true_of_not_eq_false (on ∘ m.windows.anyOn_eq_false_iff.mp))]
    · rw [State.geometryRule_set (formed.mpr accepted) (m.windows.anyOn_eq_false_iff.mpr off)]
  · have row : exec .setTimers s = .next (m.timersRule q).settle := State.command_at hm heads
    rw [row]
    exact ⟨fun refused => by rw [State.timersRule, if_pos refused],
      fun accepted => by rw [State.timersRule, if_neg (not_refused accepted)]⟩
  · have row : exec .setArbiter s = .next (m.arbiterRule q).settle := State.command_at hm heads
    rw [row]
    exact ⟨fun refused => by rw [State.arbiterRule, if_pos refused],
      fun accepted => by rw [State.arbiterRule, if_neg (not_refused accepted)]⟩

end Sys2Proof.Machine
end

section
/-! PROOFS. Every row is one event (log 1, log 4, log 8): its condition and its effect, and that the effect keeps the queue of commands. -/

namespace Sys2Proof.Machine

/-! ### The queue of commands -/

theorem State.pending_of_base {s t : State} (h : t.base = s.base) : t.pending = s.pending := congrArg (fun b => b.2.1) h

theorem State.pending_of_outside {s t : State} (h : t.outside = s.outside) : t.pending = s.pending := congrArg (fun o => o.2.1) h

theorem State.beginCommand_pending (k : CommandKind) (s : State) : (s.beginCommand k k.rule).pending = s.pending := by
  unfold State.beginCommand
  repeat' split
  · rfl
  · exact State.pending_of_outside (CommandKind.rule_outside k _ s)
  · exact State.pending_of_base (State.endCommand_base s _ _)

theorem State.makeWindowChange_pending (s : State) : s.makeWindowChange.pending = s.pending := by
  unfold State.makeWindowChange
  split
  · exact State.pending_of_outside (State.changeWindow_outside s _)
  · rfl

theorem State.decideWrite_pending (s : State) (q : Requester) (a : Nat) (data : List Word) :
    (s.decideWrite q a data).pending = s.pending := by
  have forwarded : (s.forward q a data).pending = s.pending := by
    obtain h | h := State.forward_cases s q a data <;> rw [h]
  unfold State.decideWrite
  repeat' split
  · rfl
  · rfl
  · exact (State.pending_of_base (State.takeWrite_base _ q a data)).trans forwarded
  · rfl

theorem State.holdRead_pending (s : State) (q : Requester) (a n : Nat) : (s.holdRead q a n).pending = s.pending := by
  unfold State.holdRead
  simp only
  split <;> rfl

theorem State.readTransaction_pending (s : State) (q : Requester) (a n : Nat) : (s.readTransaction q a n).pending = s.pending := by
  have hold := State.holdRead_pending s q a n
  have deferred (i : Nat) : (State.answeredRead (s.deferRead q a n i)).pending = s.pending := by
    rw [State.answeredRead, State.giveAnswer_pending, State.pending_of_base (State.deferRead_base s q a n i)]
  unfold State.readTransaction State.decideRead
  repeat' split
  · rfl
  · exact hold
  · exact hold
  · exact hold
  · exact hold
  · rename_i r answered
    rw [State.answeredRead, State.giveAnswer_pending, State.pending_of_base (State.sealedRead_base s q a n r answered).1]
  all_goals exact deferred _

theorem State.issueRead_pending (s : State) : s.issueRead.pending = s.pending := by
  unfold State.issueRead
  split <;> rfl

theorem State.forwardAnswered_pending (s : State) (source : ForwardSource) (ok : Bool) (words : List Word) :
    (s.forwardAnswered source ok words).pending = s.pending := by
  cases source with
  | delivery =>
    simp only [State.forwardAnswered, State.deliveryAnswered]
    repeat' split
    all_goals rfl
  | passThroughRead =>
    simp only [State.forwardAnswered, State.readAnswered]
    repeat' split
    all_goals rfl

theorem State.attemptAnswered_pending (a : DramAnswer) (s : State) : (s.attemptAnswered a).pending = s.pending := by
  unfold State.attemptAnswered State.forwardAttempt State.partAttempt
  repeat' split
  · rfl
  · rfl
  · exact State.forwardAnswered_pending _ _ _ _
  · rfl
  · rfl
  · exact (State.pending_of_base (State.discardedAnswer_base _ _)).trans rfl
  · exact (State.pending_of_base (State.clientAnswered_base _ _ _ _)).trans rfl

theorem State.attemptBusy_pending (s : State) : s.attemptBusy.pending = s.pending := by
  unfold State.attemptBusy
  repeat' split
  · rfl
  · rfl
  · exact State.attemptAnswered_pending _ s

theorem State.abandonedFinished_pending (landed : List Bool) (s : State) : (s.abandonedFinished landed).pending = s.pending := by
  unfold State.abandonedFinished
  split <;> rfl

/-- The boundary work, and what is due at once, keep the queue (log 4, log 8). -/
theorem Instr.moment_pending (i : Instr) (s : State) : (i.moment s).pending = s.pending := by
  unfold Instr.moment
  split
  · rfl
  · exact s.caughtUp_pending

/-! ### A row as one event -/

/-- In its moment the row makes an effect that keeps the queue, when it is due; when it is not due it changes nothing. -/
def RowMakes (i : Instr) (effect : State → State) : Prop :=
  (∀ m, (effect m).pending = m.pending) ∧
    ∀ s, exec i s = if i.due (i.moment s) = true then .next (effect (i.moment s)).settle else .next s

theorem rowMakes_of_atOnce {i : Instr} (h : i.atOnce = true) : ∃ effect, RowMakes i effect := by
  obtain rfl | rfl | rfl | ⟨k, rfl⟩ := Instr.atOnce_cases h
  · exact ⟨fun m => State.endCommand m .badKind, fun m => State.pending_of_base (State.endCommand_base m _ _), fun _ => rfl⟩
  · exact ⟨State.makeSlotClaim, fun m => State.pending_of_base (State.makeSlotClaim_base m), fun _ => rfl⟩
  · exact ⟨State.makeWindowChange, State.makeWindowChange_pending, fun _ => rfl⟩
  · refine ⟨State.beginCommand k k.rule, State.beginCommand_pending k, fun s => ?_⟩
    rw [CommandKind.exec_row, CommandKind.row_due, Instr.moment, k.row_atOnce]
    rfl

/-- Every row but LINE_RESET is one event. -/
theorem lineReset_or_rowMakes (i : Instr) : (∃ b, i = .lineReset b) ∨ ∃ effect, RowMakes i effect := by
  have of_base {effect : State → State} (keeps : ∀ m : State, (effect m).base = m.base) (m : State) :
      (effect m).pending = m.pending := State.pending_of_base (keeps m)
  cases i with
  | lineReset b => exact .inl ⟨b, rfl⟩
  | tick | stallTimerExpiry | discardCountdownExpiry e => exact .inr ⟨_, of_base State.pulse_base, fun _ => rfl⟩
  | upstreamWrite q a data | rawWindowWrite q a data | consumerIndexWrite q a data =>
    exact .inr ⟨_, fun m => State.decideWrite_pending m q a.toNat data, fun _ => rfl⟩
  | upstreamRead q a n => exact .inr ⟨_, fun m => State.readTransaction_pending m q a.toNat n, fun _ => rfl⟩
  | passThroughReadIssue => exact .inr ⟨_, State.issueRead_pending, fun _ => rfl⟩
  | passThroughReadAnswer a | pwbDeliveryAnswer a | engineTransferAnswer a | stackUnitTransferAnswer a | drqFetchAnswer a
  | pilotCheckReadAnswer a | reportWriteAnswer a | producerWriteAnswer a | mirrorWriteAnswer a | commandSlotWriteAnswer a =>
    exact .inr ⟨_, State.attemptAnswered_pending a, fun _ => rfl⟩
  | attemptBusy => exact .inr ⟨_, State.attemptBusy_pending, fun _ => rfl⟩
  | clearSweep => exact .inr ⟨_, of_base State.takeClear_base, fun _ => rfl⟩
  | processScan => exact .inr ⟨_, of_base State.takeProcess_base, fun _ => rfl⟩
  | clearSlot => exact .inr ⟨_, of_base State.takeClearSlot_base, fun _ => rfl⟩
  | fold => exact .inr ⟨_, of_base State.takeFold_base, fun _ => rfl⟩
  | pilotCheckStart => exact .inr ⟨_, of_base State.startCheck_base, fun _ => rfl⟩
  | busyWriteHanded => exact .inr ⟨_, of_base State.handBusyWrite_base, fun _ => rfl⟩
  | engineResetScanAssembler => exact .inr ⟨_, of_base State.resetScans_base, fun _ => rfl⟩
  | engineResetDone => exact .inr ⟨_, of_base State.resetDone_base, fun _ => rfl⟩
  | abandonedAttemptFinished landed => exact .inr ⟨_, State.abandonedFinished_pending landed, fun _ => rfl⟩
  | badKindCommand | setGeometry | setWindow | windowChange | setTimers | readState | engineReset | noticeSweep | cancelSweep
  | readSweep | definePilot | removePilot | muteChannel | unmuteChannel | readChannel | openSourcePoint | slotClaim
  | closeSourcePoint | releaseStack | setArbiter | setMode | setReports => exact .inr (rowMakes_of_atOnce rfl)
  -- The one row left is SEAL, whose name as a case is a keyword of Lean.
  | _ => exact .inr ⟨_, of_base State.takeSeal_base, fun _ => rfl⟩

/-- Settles O2: LINE_RESET is always due and keeps the queue; every other row is one event. -/
theorem everyRowAnswersNext : Obligations.EveryRowAnswersNext := by
  intro i s
  obtain ⟨b, rfl⟩ | ⟨effect, keeps, row⟩ := lineReset_or_rowMakes i
  · exact ⟨⟨_, rfl, rfl⟩, nofun⟩
  · rw [row]
    cases due : i.due (i.moment s) with
    | true => exact ⟨⟨_, rfl, (keeps _).trans (Instr.moment_pending i s)⟩, nofun⟩
    | false => exact ⟨⟨s, rfl, rfl⟩, fun _ => rfl⟩

end Sys2Proof.Machine
end

section
/-! PROOFS. How a command ends (R150, R151, R153), the writes into its slot (R150, R152), and the commands that end where they begin: those
of no kind and those that the mode does not allow (R154). -/

namespace Sys2Proof.Machine

/-! ### The end of a command (R150, R151) -/

section
variable {s : State} {q : QueueEntry} {rest : List QueueEntry} (queue : s.commands.queue = q :: rest)
include queue

/-- Its BUSY write has been handed: its own writes follow. -/
theorem State.endCommand_hands (handed : q.slot ∉ s.commands.busyWaits) (status : Status) (results : Option (List Word)) :
    s.endCommand status results = { s with
      commands := { s.commands with queue := rest, progress := none }
      reports := s.reports.hand ((s.commandSlot q.slot).endWrites q.slot ⟨status, results⟩) } := by
  simp [State.endCommand, queue, handed]

/-- Its BUSY write still waits: its slot keeps the ending. -/
theorem State.endCommand_waits (waits : q.slot ∈ s.commands.busyWaits) (status : Status) (results : Option (List Word)) :
    s.endCommand status results = { s with
      commands := { s.commands with
        queue := rest, progress := none
        slots := s.commands.slots.set q.slot { s.commandSlot q.slot with ending := some ⟨status, results⟩ } } } := by
  simp [State.endCommand, queue, waits]

end

/-- Settles O42: by whether the BUSY write has been handed, and by whether the command has results. -/
theorem commandEnds : Obligations.CommandEnds := by
  intro s q rest status results c queue hc
  subst hc
  refine ⟨fun handed => ?_, fun waits => State.endCommand_waits queue waits status results⟩
  rw [State.endCommand_hands queue handed]
  cases results with
  | none => rw [List.append_nil]; rfl
  | some words => rw [List.append_assoc]; rfl

/-! ### BUSY_WRITE_HANDED (R150) -/

theorem State.busyWriteDue_clear {s : State} {j : Nat} {rest : List Nat} (waits : s.commands.busyWaits = j :: rest)
    (clear : ∀ w ∈ s.pwb, w.range.meets ⟨s.controlBase + 32 * j, 32⟩ = false) : s.busyWriteDue = true := by
  simp only [State.busyWriteDue, waits]
  exact (s.bufferClear_iff _).mpr clear

/-- The BUSY write goes, and after it the writes of a command that has ended. -/
theorem State.handBusyWrite_eq {s : State} {j : Nat} {rest : List Nat} (waits : s.commands.busyWaits = j :: rest) :
    s.handBusyWrite = { s with
      commands := { s.commands with
        busyWaits := rest, slots := s.commands.slots.set j { s.commandSlot j with ending := none } }
      reports := s.reports.hand (.slotWrite ⟨j, .busy, [statusWord .busy (s.commandSlot j).tag]⟩ ::
        (s.commandSlot j).ending.elim [] ((s.commandSlot j).endWrites j)) } := by
  simp only [State.handBusyWrite, waits]
  cases (s.commandSlot j).ending <;> rfl

/-! ### COMMAND_SLOT_WRITE_ANSWER (R152) -/

theorem State.reportAnswered_slotWrite {s x : State} (hx : x = { s with reports := { s.reports with out := none } }) {w : SlotWrite}
    (h : s.reports.out = some ⟨.slotWrite w, false⟩) (ok : Bool) : s.reportAnswered ok = x.slotWriteAnswered ok w := by
  simp only [State.reportAnswered, h, hx]

theorem State.setCommandSlot_twice (s : State) (j : Nat) (c d : CommandSlot) :
    (s.setCommandSlot j c).setCommandSlot j d = s.setCommandSlot j d := by
  simp only [State.setCommandSlot, List.set_set]

section
variable {s : State} {w : SlotWrite} {c : CommandSlot} (slot : s.commands.slots[w.slot]? = some c)
include slot

theorem State.commandSlot_of_getElem? : s.commandSlot w.slot = c := by
  rw [State.commandSlot, List.getD_eq_getElem?_getD, slot, Option.getD_some]

/-- A write other than the final one leaves the slot BUSY. -/
theorem State.returnSlot_eq : s.returnSlot w =
    s.setCommandSlot w.slot { c with busy := if w.role = .final then false else c.busy } := by
  have held := State.commandSlot_of_getElem? slot
  have same := s.setCommandSlot_self w.slot
  rw [held] at same
  cases role : w.role with
  | busy | results => simp [State.returnSlot, role, same]
  | final => simp [State.returnSlot, role, held]

/-- An answer OK, or one to a command whose first FAULT is past, makes no report. -/
theorem State.slotWriteAnswered_quiet {ok : Bool} (quiet : ok = true ∨ c.faulted = true) : s.slotWriteAnswered ok w =
    s.setCommandSlot w.slot { c with busy := if w.role = .final then false else c.busy } := by
  have held := State.commandSlot_of_getElem? slot
  rw [← State.returnSlot_eq slot, State.slotWriteAnswered, held, if_pos (by simpa using quiet)]

/-- The first FAULT marks the slot, and is reported. -/
theorem State.slotWriteAnswered_fault (first : c.faulted = false) : s.slotWriteAnswered false w =
    (s.setCommandSlot w.slot { c with faulted := true, busy := if w.role = .final then false else c.busy }).partFault
      .commandWrite w.slot := by
  have held := State.commandSlot_of_getElem? slot
  obtain ⟨inTable, -⟩ := List.getElem?_eq_some_iff.mp slot
  have marked : ((s.setCommandSlot w.slot { c with faulted := true }).partFault .commandWrite w.slot).commands.slots[w.slot]? =
      some { c with faulted := true } := List.getElem?_set_self inTable
  rw [State.slotWriteAnswered, held, if_neg (by simp [first]), State.returnSlot_eq marked]
  exact congrArg (fun t => State.partFault t .commandWrite w.slot) (State.setCommandSlot_twice s w.slot _ _)

end

/-- Settles O43: BUSY_WRITE_HANDED by what the slot holds of an ending, the answer by whether it is the command's first FAULT. -/
theorem commandSlotWrites : Obligations.CommandSlotWrites := by
  refine ⟨?_, ?_⟩
  · intro s m j rest c tag hm waits clear hc htag
    subst hc htag
    have row : exec .busyWriteHanded s = .next m.handBusyWrite.settle := State.laterEvent_at hm (State.busyWriteDue_clear waits clear)
    rw [row, State.handBusyWrite_eq waits, List.append_assoc]
    cases (m.commandSlot j).ending with
    | none => rfl
    | some e =>
      obtain ⟨status, results⟩ := e
      cases results <;> rfl
  · intro s m x o w a c hm ho hx hout slot
    have row : exec (.commandSlotWriteAnswer a) s = _ := State.reportAnswer_at hm ho hout a
    have slot' : x.commands.slots[w.slot]? = some c := by rw [hx]; exact slot
    rw [row, State.reportAnswered_slotWrite hx hout]
    refine ⟨fun quiet => ?_, fun landed fault first => ?_⟩
    · rw [State.slotWriteAnswered_quiet slot' (quiet.imp_left (fun ok => by rw [ok]; rfl)), hx]
      rfl
    · subst fault
      rw [answerOk, State.slotWriteAnswered_fault slot' first, hx]
      rfl

/-! ### BAD_KIND and BAD_MODE (R154) -/

/-- The modes that do not allow a kind. -/
theorem CommandKind.available_eq_false_iff (k : CommandKind) (mode : Mode) : k.available mode = false ↔
    (k = .setGeometry ∨ k = .setWindow) ∧ mode ≠ .idle ∨ k = .noticeSweep ∧ mode ≠ .acquire ∨
      k = .openSourcePoint ∧ mode = .draining ∨ k = .cancelSweep ∧ mode = .idle := by
  cases k <;> simp [CommandKind.available]

/-- A command that the mode does not allow ends where it begins, its rule not applied. -/
theorem State.beginCommand_badMode {s : State} {k : CommandKind} {q : QueueEntry} (head : s.commands.queue.head? = some q)
    (refused : k.available s.mode = false) (rule : QueueEntry → State → State) : s.beginCommand k rule = s.endCommand .badMode := by
  obtain ⟨rest, queue⟩ := List.head?_eq_some_iff.mp head
  simp [State.beginCommand, queue, refused]

/-- Settles O44: the row of a command that is due, and the branch of the beginning that its mode leaves. -/
theorem badKindAndMode : Obligations.BadKindAndMode := by
  refine ⟨fun s m q hm idle head kind => ?_, fun s m q k hm idle head kind refused => ?_⟩
  · exact State.event_at (effect := fun s => s.endCommand .badKind) hm (m.badKindDue_iff.mpr ⟨idle, q, head, kind⟩)
  · rw [CommandKind.exec_row, ← State.beginCommand_badMode head ((k.available_eq_false_iff m.mode).mpr refused) k.rule]
    exact State.event_at hm ((m.commandDue_iff k).mpr ⟨idle, q, head, kind⟩)

end Sys2Proof.Machine
end

section
/-! PROOFS. SET_MODE (R166 to R169, R171): its operands, the preconditions of ACQUIRE, and one equation for each mode and target. -/

namespace Sys2Proof.Machine

/-! ### The operands (R166) -/

section
variable {s : State} {q : QueueEntry}

theorem State.setModeRule_badOperand (range : q.whole 1 ≠ 1 ∧ q.whole 1 ≠ 2 ∨ 1 < q.whole 2) :
    s.setModeRule q = s.endCommand .badOperand := by
  unfold State.setModeRule
  obtain ⟨notIdle, notAcquire⟩ | flag := range
  · split
    · rfl
    · split
      · contradiction
      · contradiction
      · rfl
  · rw [if_pos flag]

variable (flag : q.whole 2 ≤ 1)
include flag

theorem State.setModeRule_idle (target : q.whole 1 = 1) : s.setModeRule q = s.setMode .idle (q.whole 2) := by
  simp only [State.setModeRule, if_neg (Nat.not_lt.mpr flag), target]

theorem State.setModeRule_acquire (target : q.whole 1 = 2) : s.setModeRule q = s.setMode .acquire (q.whole 2) := by
  simp only [State.setModeRule, if_neg (Nat.not_lt.mpr flag), target]

end

/-! ### The preconditions of ACQUIRE (R167) -/

theorem State.acquireReady_iff (s : State) : s.acquireReady = true ↔
    s.geometry.c ≠ 0 ∧ s.windows.raw ≠ none ∧ s.windows.stack ≠ none ∧ s.windows.scratch ≠ none := by
  simp only [State.acquireReady, Geometry.isSet, Bool.and_eq_true, bne_iff_ne, Option.isSome_iff_ne_none, and_assoc]

theorem State.acquireReady_eq_false_iff (s : State) : s.acquireReady = false ↔
    s.geometry.c = 0 ∨ s.windows.raw = none ∨ s.windows.stack = none ∨ s.windows.scratch = none := by
  rw [Bool.eq_false_iff, Ne, s.acquireReady_iff]
  tauto

/-! ### Each mode and target (R167 to R169) -/

section
variable {s : State} {flag : Nat}

theorem State.setMode_notReady (mode : s.mode = .idle) (unready : s.acquireReady = false) :
    s.setMode .acquire flag = s.endCommand .notReady := by
  simp only [State.setMode, mode, unready, Bool.false_eq_true, if_false]

/-- From IDLE the report names the mode left by its code 1. -/
theorem State.setMode_starts (mode : s.mode = .idle) (ready : s.acquireReady = true) : s.setMode .acquire flag = State.endCommand
    (State.submit { s with mode := .acquire, requestedMode := .acquire } .modeChanged 1 none (2 + 256)) .ok := by
  simp only [State.setMode, mode, ready, if_true, State.changeMode]
  rfl

/-- The mode in force is asked for again. -/
theorem State.setMode_same {target : Mode} (mode : s.mode = target) (settled : target ≠ .draining) :
    s.setMode target flag = s.endCommand .ok := by
  cases target with
  | idle | acquire => simp only [State.setMode, mode]
  | draining => contradiction

theorem State.setMode_leaves (mode : s.mode = .acquire) :
    s.setMode .idle flag = (s.applyAbort flag).leaveAcquire.endCommand .ok := by
  simp only [State.setMode, mode]

/-- A drain is called off: the sweeps go on. -/
theorem State.setMode_returns (mode : s.mode = .draining) : s.setMode .acquire flag = State.endCommand
    (State.submit { s with mode := .acquire, requestedMode := .acquire } .modeChanged 3 none (2 + 256)) .ok := by
  simp only [State.setMode, mode, State.changeMode]
  rfl

/-- A drain goes on, and the abort flag may still end it sooner. -/
theorem State.setMode_drains (mode : s.mode = .draining) : s.setMode .idle flag = (s.applyAbort flag).endCommand .ok := by
  simp only [State.setMode, mode]

end

/-! ### The modes that ACQUIRE is left for (R168) -/

/-- The abort leaves the mode to the steps after it. -/
theorem State.applyAbort_mode (s : State) (flag : Nat) : (s.applyAbort flag).mode = s.mode :=
  congrArg Prod.fst (s.applyAbort_calm flag)

theorem State.noSweep_iff (s : State) : s.noSweep = true ↔ s.liveSweeps = [] := List.isEmpty_iff

theorem State.leaveAcquire_enters {s : State} (empty : s.liveSweeps = []) : s.leaveAcquire = s.enterIdle .setMode :=
  if_pos (s.noSweep_iff.mpr empty)

theorem State.leaveAcquire_drains {s : State} (mode : s.mode = .acquire) (live : s.liveSweeps ≠ []) : s.leaveAcquire =
    State.submit { s with mode := .draining, requestedMode := .idle } .modeChanged 2 none (3 + 256) := by
  rw [State.leaveAcquire, if_neg (s.noSweep_iff.not.mpr live), State.changeMode, mode]
  rfl

/-- Settles O56: the operands give the target, and the mode and the target give the equation of SET_MODE that applies. -/
theorem modeSet : Obligations.ModeSet := by
  intro s m x q target abort hm heads htarget habort hx
  have row : exec .setMode s = .next (m.setModeRule q).settle := State.command_at hm heads
  have aborted : m.applyAbort abort = x := hx.symm
  subst htarget habort
  rw [row]
  refine ⟨fun refused => by rw [State.setModeRule_badOperand refused], fun _ flag => ⟨?_, ?_, ?_, ?_, ?_⟩⟩
  · intro mode target
    rw [State.setModeRule_acquire flag target]
    refine ⟨fun unready => ?_, fun geometry raw stack scratch => ?_⟩
    · rw [State.setMode_notReady mode (m.acquireReady_eq_false_iff.mpr unready)]
    · rw [State.setMode_starts mode (m.acquireReady_iff.mpr ⟨geometry, raw, stack, scratch⟩)]
  · rintro (⟨mode, target⟩ | ⟨mode, target⟩)
    · rw [State.setModeRule_idle flag target, State.setMode_same mode nofun]
    · rw [State.setModeRule_acquire flag target, State.setMode_same mode nofun]
  · intro mode target
    have left : x.mode = .acquire := by rw [← aborted, State.applyAbort_mode, mode]
    rw [State.setModeRule_idle flag target, State.setMode_leaves mode, aborted]
    exact ⟨fun empty => by rw [State.leaveAcquire_enters empty], fun live => by rw [State.leaveAcquire_drains left live]⟩
  · intro mode target
    rw [State.setModeRule_acquire flag target, State.setMode_returns mode]
  · intro mode target
    rw [State.setModeRule_idle flag target, State.setMode_drains mode, aborted]

end Sys2Proof.Machine
end

section
/-! PROOFS. The Report Unit: what a submission does (R176), SET_REPORTS (R174) and when ATTN is asserted (R179). -/

namespace Sys2Proof.Machine

/-! ### Losing a report to pending (R176) -/

/-- Kinds before the one that is lost are passed over. -/
theorem losePending_append {kind : ReportKind} {before : List PendingKind} (lower : ∀ x ∈ before, x.kind.code < kind.code)
    (subject : Nat) (q : Option Requester) (n : Nat) (kinds : List PendingKind) :
    losePending kind subject q n (before ++ kinds) = before ++ losePending kind subject q n kinds := by
  induction before with
  | nil => rfl
  | cons x before ih =>
    obtain ⟨first, others⟩ := List.forall_mem_cons.mp lower
    have other : x.kind ≠ kind := fun same => absurd first (by rw [same]; exact Nat.lt_irrefl _)
    rw [List.cons_append, losePending, if_neg other, if_neg (Nat.lt_asymm first), ih others, List.cons_append]

/-- A kind that is pending counts on, and keeps the subject of its first loss. -/
theorem losePending_counts (p : PendingKind) (subject : Nat) (q : Option Requester) (n : Nat) (after : List PendingKind) :
    losePending p.kind subject q n (p :: after) = { p with count := min (p.count + n) Config.countCap } :: after := if_pos rfl

/-- A kind lower than those pending joins ahead of them. -/
theorem losePending_joins {kind : ReportKind} {after : List PendingKind} (higher : ∀ x ∈ after, kind.code < x.kind.code)
    (subject : Nat) (q : Option Requester) (n : Nat) :
    losePending kind subject q n after = ⟨kind, min n Config.countCap, subject, q⟩ :: after := by
  cases after with
  | nil => rfl
  | cons x after =>
    have first := higher x List.mem_cons_self
    have other : x.kind ≠ kind := fun same => absurd first (by rw [same]; exact Nat.lt_irrefl _)
    rw [losePending, if_neg other, if_pos first]

/-! ### Flushes and submissions (R176) -/

theorem Reports.hasRoom_eq (r : Reports) : r.hasRoom =
    decide (r.size ≠ 0 ∧ (r.producer + r.size - r.consumer) % r.size + r.recordQueue.length < r.size - 1) := by
  rw [Bool.decide_and, decide_not]
  rfl

/-- A flush goes by the kinds it is given, whatever the set that holds them. -/
theorem Reports.flushKinds_pendingKinds (newest : Option Nat) (kinds : List PendingKind) : ∀ (ps : List PendingKind) (r : Reports),
    Reports.flushKinds newest ps { r with pendingKinds := kinds } = Reports.flushKinds newest ps r
  | [], _ => rfl
  | p :: ps, r => by
    have room : Reports.hasRoom { r with pendingKinds := kinds } = r.hasRoom := rfl
    rw [Reports.flushKinds, Reports.flushKinds, room]
    split
    · exact Reports.flushKinds_pendingKinds newest kinds ps (r.hand _)
    · rfl

section
variable {r : Reports} {newest : Option Nat}

/-- Without room a flush leaves everything as it is. -/
theorem Reports.flush_full (full : r.hasRoom = false) : r.flush newest = r := by
  cases pending : r.pendingKinds with
  | nil => exact r.flush_empty newest pending
  | cons p rest => rw [Reports.flush, pending, Reports.flushKinds, if_neg (by simp [full]), ← pending]

/-- With room a flush queues the lowest kind's COALESCED record, and goes on. -/
theorem Reports.flush_room {p : PendingKind} {rest : List PendingKind} (pending : r.pendingKinds = p :: rest) (room : r.hasRoom = true) :
    r.flush newest = Reports.flush { r.hand [.record (p.coalesced newest)] with pendingKinds := rest } newest := by
  rw [Reports.flush, pending, Reports.flushKinds, if_pos room]
  exact (Reports.flushKinds_pendingKinds newest rest rest _).symm

variable (kind : ReportKind) (subject : Nat) (q : Option Requester) (detail : Nat)

theorem Reports.submit_taken (pending : r.pendingKinds = []) (room : r.hasRoom = true) :
    r.submit newest kind subject q detail = r.hand [.record ⟨kind, false, subject, q, detail, newest⟩] := by
  simp [Reports.submit, r.flush_empty newest pending, pending, room]

/-- A submission that flushes a kind is the submission after that kind's record has been queued. -/
theorem Reports.submit_room {p : PendingKind} {rest : List PendingKind} (pending : r.pendingKinds = p :: rest) (room : r.hasRoom = true) :
    r.submit newest kind subject q detail =
      Reports.submit { r.hand [.record (p.coalesced newest)] with pendingKinds := rest } newest kind subject q detail := by
  rw [Reports.submit, Reports.submit, Reports.flush_room pending room]

theorem Reports.submit_lost (full : r.hasRoom = false) : r.submit newest kind subject q detail =
    { r with pendingKinds := losePending kind subject q 1 r.pendingKinds } := by
  rw [Reports.submit, Reports.flush_full full]
  simp [full, Reports.loseRecord]

end

/-- Settles O38: by whether there is room, and then by the pending set that the submission meets. -/
theorem reportSubmitted : Obligations.ReportSubmitted := by
  intro s r newest kind subject detail q room hr hnewest hroom
  rw [← Reports.hasRoom_eq] at hroom
  subst hr hnewest hroom
  refine ⟨fun pending room => ?_, fun p rest pending room => ?_, fun before p after full pending same lower => ?_,
    fun before after full pending lower higher => ?_⟩
  · rw [State.submit, Reports.submit_taken kind subject q detail pending room]
    rfl
  · rw [State.submit, Reports.submit_room kind subject q detail pending room]
    rfl
  · subst same
    rw [State.submit, Reports.submit_lost p.kind subject q detail full, pending, losePending_append lower, losePending_counts,
      Nat.min_comm]
    rfl
  · rw [State.submit, Reports.submit_lost kind subject q detail full, pending, losePending_append lower, losePending_joins higher]
    rfl

/-! ### ATTN (R179; assumption log 37) -/

theorem Reports.mem_recordOut_iff (r : Reports) (x : Record) :
    x ∈ r.recordOut ↔ ∃ place, r.out = some ⟨.record x place, false⟩ := by
  unfold Reports.recordOut
  split
  next y place out => simp [out, eq_comm]
  next other =>
    refine iff_of_false List.not_mem_nil ?_
    rintro ⟨place, out⟩
    exact other x place out

/-- A record is queued while it stands in the hand order or its write is outstanding. -/
theorem Reports.mem_recordQueue_iff (r : Reports) (x : Record) : x ∈ r.recordQueue ↔
    .record x ∈ r.handOrder ∨ ∃ place, r.out = some ⟨.record x place, false⟩ := by
  rw [Reports.recordQueue, List.mem_append, Reports.mem_recordOut_iff, or_comm, List.mem_filterMap]
  refine or_congr_left ⟨?_, fun handed => ⟨_, handed, rfl⟩⟩
  rintro ⟨h, handed, held⟩
  cases h with
  | record y => exact Option.some.inj held ▸ handed
  | producerReset | slotWrite w => cases held

theorem Reports.attn_iff (r : Reports) : r.attn = true ↔
    r.enable = true ∧ (r.producer ≠ r.consumer ∨ r.pendingKinds ≠ [] ∨ ∃ x ∈ r.recordQueue, x.coalesced = true) := by
  simp [Reports.attn, Reports.flushQueued, or_assoc]

/-- Settles O40: the line's condition, its frame under a flush, and what the record queue holds. -/
theorem attnLine : Obligations.AttnLine := by
  refine ⟨fun s => s.reports.attn_iff, ?_, Reports.mem_recordQueue_iff⟩
  rintro s _ newest rfl
  exact s.reports.flush_attn newest

/-! ### SET_REPORTS (R174) -/

theorem ringSizeOk_iff (n : Nat) : ringSizeOk n = true ↔ n ∈ [0, 16, 32, 64, 128, 256, 512, 1024] := List.contains_iff_mem

/-- Records lose their ring places one after another, and the pending set alone changes (log 36). -/
theorem Reports.foldl_loseRecord (records : List Record) : ∀ r : Reports, records.foldl Reports.loseRecord r = { r with
    pendingKinds := records.foldl (fun kinds x =>
      losePending x.kind x.subject x.requester (if x.coalesced = true then x.detail else 1) kinds) r.pendingKinds } := by
  induction records with
  | nil => exact fun _ => rfl
  | cons x records ih => exact fun r => ih (r.loseRecord x)

section
variable {s : State} {q : QueueEntry}

theorem State.reportsRule_badOperand (refused : ringSizeOk (q.whole 1) = false ∨ 1 < q.whole 2) :
    s.reportsRule q = s.endCommand .badOperand := if_pos refused

theorem State.reportsRule_set (size : ringSizeOk (q.whole 1) = true) (enable : q.whole 2 ≤ 1) : s.reportsRule q =
    State.endCommand { s with reports := s.reports.setRing (q.whole 1) (q.whole 2 == 1) s.assembler.newest } .ok :=
  if_neg (by simp [size, enable])

end

/-- Settles O41: the command's row, and its rule by whether size and enable are in range. -/
theorem reportsSet : Obligations.ReportsSet := by
  intro s m q hm heads
  have row : exec .setReports s = .next (m.reportsRule q).settle := State.command_at hm heads
  rw [row]
  refine ⟨fun refused => ?_, fun r size enable hr => ?_⟩
  · rw [State.reportsRule_badOperand (refused.imp_left (fun size => Bool.eq_false_iff.mpr ((ringSizeOk_iff _).not.mpr size)))]
  · have emptied : Reports.hand { m.reports.withdraw with
        size := q.whole 1, enable := q.whole 2 == 1, producer := 0, consumer := 0 } [.producerReset] = r := by
      rw [hr, Reports.withdraw, Reports.foldl_loseRecord]
      simp only [Reports.hand, Reports.mk.injEq, List.append_cancel_right_eq, true_and, and_true]
      exact ⟨List.filter_congr (fun h _ => by cases h <;> rfl),
        Option.map_congr (fun ⟨write, _⟩ _ => by cases write <;> rfl)⟩
    rw [State.reportsRule_set ((ringSizeOk_iff _).mpr size) enable, Reports.setRing, emptied]

end Sys2Proof.Machine
end

section
/-! PROOFS. A step by the queue of rows: the row at its front runs on the rest, and an empty queue idles (log 2). -/

namespace Sys2Proof.Machine

section
variable {s : State}

theorem step_of_pending_nil (empty : s.pending = []) : step s = .next s := by
  rw [step, empty]

theorem step_of_pending_cons {c : Instr} {rest : List Instr} (front : s.pending = c :: rest) :
    step s = exec c { s with pending := rest } := by
  rw [step, front]

end

/-- Settles O1, by the two cases of the queue. -/
theorem stepRunsFrontCommand : Obligations.StepRunsFrontCommand :=
  fun _ _ _ => ⟨step_of_pending_cons rfl, step_of_pending_nil rfl⟩

end Sys2Proof.Machine
end
